-- ==== Sys2Proof/Word.lean ====
section
/-! DEFINITION. The two widths the block moves: a byte (R8) and a 16-bit command word (R61). -/

namespace Sys2Proof

/-- A byte: an unsigned 8-bit value, bit 0 least significant (R8). -/
abbrev Byte := BitVec 8

/-- A command word (R61). -/
abbrev Word := BitVec 16

end Sys2Proof
end

