-- ==== Sys2Proof/Config.lean ====
section
/-! DEFINITION. The parameters of 00_scope.md rule R6, fixed for the block's lifetime (R36), and the model's free values.
A parameter the spec leaves open is a constant with no body: no proof can see its value, so a claim holds for every value
(D2, D3, D4, D20: "A model takes these as arguments"). -/

namespace Sys2Proof

/-- The two readings of which error RX_ERR reports (R6, R154). -/
inductive ErrSelect where
  /-- The highest-priority set flag, in the order of R154. -/
  | priority
  /-- Any one of the set flags, a draw. -/
  | any
  deriving DecidableEq, Repr, Inhabited

/-- PREFIX_BYTE, the start sentinel (R6, R7, D2): a parameter, 0xAA only in examples. DESIGN CHOICE: kept symbolic; log 4. -/
opaque Config.prefixByte : Byte

/-- SUFFIX_BYTE, the end sentinel (R6, R7, D3): a parameter, 0xBB only in examples. DESIGN CHOICE: kept symbolic; log 4. -/
opaque Config.suffixByte : Byte

/-- OPCODE_CONSOLE (R6, R36, D4): a host convention, read by no command. DESIGN CHOICE: kept symbolic; log 4. -/
opaque Config.opcodeConsole : Byte

/-- ERR_SELECT (R6, R154, D20): a parameter. DESIGN CHOICE: kept symbolic, so that both readings are admitted; log 5. -/
opaque Config.errSelect : ErrSelect

/-- The free draw of R154 with ERR_SELECT = ANY, a function of the receive unit's registers. DESIGN CHOICE; log 6. -/
opaque Config.errDraw : List Byte → Nat

/-- FREE VALUE: what TX_POP returns at a frame index past the suffix, where R95 gives no byte: a function of TXCNT and of
the index. No run reaches such a state (R24). DESIGN CHOICE; log 10. -/
opaque Config.freeTxByte : Byte → Nat → Byte

/-- MIN_PAYLOAD (R6). -/
abbrev Config.minPayload : Nat := 1

/-- MAX_PAYLOAD (R6), fixed by the 8-bit length field. -/
abbrev Config.maxPayload : Nat := 255

/-- FRAME_OVERHEAD (R6): prefix, length, opcode, checksum and suffix. -/
abbrev Config.frameOverhead : Nat := 5

/-- CRC_WIDTH (R6), the number of shifts one byte takes in R81. -/
abbrev Config.crcWidth : Nat := 8

/-- CRC_POLY (R6, R81): x^8 + x^5 + x^4 + 1 without the x^8 term. PRESUMED by the spec itself (I1); log 7. -/
abbrev Config.crcPoly : Byte := 0x31

/-- CRC_INIT (R6, R82). PRESUMED by the spec itself (I2); log 7. -/
abbrev Config.crcInit : Byte := 0xFF

/-- CRC_REFIN (R6): a byte is taken most significant bit first (R50). PRESUMED by the spec itself (I3); log 7. -/
abbrev Config.crcRefIn : Bool := false

/-- CRC_REFOUT (R6): the result is not reflected (R82). PRESUMED by the spec itself (I3); log 7. -/
abbrev Config.crcRefOut : Bool := false

/-- CRC_XOROUT (R6, R82). PRESUMED by the spec itself (I3); log 7. -/
abbrev Config.crcXorOut : Byte := 0x00

/-- How many entries TXBUF and RXBUF each have: indices 0..254 (R22, R30). -/
abbrev Config.bufferSize : Nat := 255

end Sys2Proof
end

