-- ==== Sys2Proof/Syntax.lean ====
section
/-! DEFINITION. The twenty commands of 30_encoding.md rule R63, one constructor per row of spec/opcode_table.json. -/

namespace Sys2Proof

/-- A decoded command, the form `(command, D)` of R69. `d` is the operand byte D of the word. The sixteen commands that
ignore D (R62) keep it all the same, so that a word and its decoded form determine each other; log 13. -/
inductive Instr where
  /-- NOP, R141. -/
  | nop (d : Byte)
  /-- SRESET, R142. -/
  | sreset (d : Byte)
  /-- CMD_STAT, R143. -/
  | cmdStat (d : Byte)
  /-- CMD_CLR, R144. -/
  | cmdClr (d : Byte)
  /-- CRC_INIT, R83. -/
  | crcInit (d : Byte)
  /-- CRC_FEED, R84: d is the byte folded in. -/
  | crcFeed (d : Byte)
  /-- CRC_READ, R85. -/
  | crcRead (d : Byte)
  /-- TX_START, R92: d is the frame's opcode. -/
  | txStart (d : Byte)
  /-- TX_PUSH, R93: d is the next payload byte. -/
  | txPush (d : Byte)
  /-- TX_END, R94. -/
  | txEnd (d : Byte)
  /-- TX_POP, R96. -/
  | txPop (d : Byte)
  /-- TX_STAT, R97. -/
  | txStat (d : Byte)
  /-- RX_START, R113. -/
  | rxStart (d : Byte)
  /-- RX_PUSH, R114: d is the next received byte. -/
  | rxPush (d : Byte)
  /-- RX_END, R115. -/
  | rxEnd (d : Byte)
  /-- RX_STAT, R116. -/
  | rxStat (d : Byte)
  /-- RX_ERR, R117. -/
  | rxErr (d : Byte)
  /-- RX_RDLEN, R119. -/
  | rxRdlen (d : Byte)
  /-- RX_RDOPC, R120. -/
  | rxRdopc (d : Byte)
  /-- RX_POP, R121. -/
  | rxPop (d : Byte)
  deriving DecidableEq, Repr

end Sys2Proof
end

