-- ==== Sys2Proof/WellFormed.lean ====
section
/-! DEFINITION. What a well-formed command is: which codes are legal (R63, R65), and the form an assembler writes (R62, R67).
The block itself runs every decoded command, whatever its D (R66). -/

namespace Sys2Proof

/-- The operand byte D of a decoded command. -/
def Instr.operand : Instr → Byte
  | .nop d | .sreset d | .cmdStat d | .cmdClr d
  | .crcInit d | .crcFeed d | .crcRead d
  | .txStart d | .txPush d | .txEnd d | .txPop d | .txStat d
  | .rxStart d | .rxPush d | .rxEnd d | .rxStat d | .rxErr d | .rxRdlen d | .rxRdopc d | .rxPop d => d

/-- Whether the command uses D: CRC_FEED, TX_START, TX_PUSH and RX_PUSH do, every other command ignores it (R62). -/
def Instr.usesOperand : Instr → Bool
  | .crcFeed _ | .txStart _ | .txPush _ | .rxPush _ => true
  | .nop _ | .sreset _ | .cmdStat _ | .cmdClr _ | .crcInit _ | .crcRead _ | .txEnd _ | .txPop _ | .txStat _
  | .rxStart _ | .rxEnd _ | .rxStat _ | .rxErr _ | .rxRdlen _ | .rxRdopc _ | .rxPop _ => false

/-- The assembled form: an ignored D is written 0 (R62 "Assemblers write 0 for an ignored D", R67). -/
def Instr.wellFormed (i : Instr) : Bool := i.usesOperand || i.operand == 0

/-- The illegal command codes, as the ranges R65 lists: 0x04-0x0F, 0x13-0x1F, 0x25-0x2F and 0x38-0xFF. -/
def illegalCode (c : Byte) : Bool :=
  let n := c.toNat
  decide (0x04 ≤ n ∧ n ≤ 0x0F) || decide (0x13 ≤ n ∧ n ≤ 0x1F) || decide (0x25 ≤ n ∧ n ≤ 0x2F) || decide (0x38 ≤ n)

/-- A word is legal when its command code is; no value of D makes it illegal (R66). -/
def legalWord (w : Word) : Bool := !illegalCode (w.extractLsb' 8 8)

end Sys2Proof
end

