-- ==== Sys2Proof/Decode.lean ====
section
/-! DEFINITION. The decoder and the encoder of 30_encoding.md rules R61 to R69. -/

namespace Sys2Proof

/-- CMD = W[15:8] (R61). -/
def Word.cmd (w : Word) : Byte := w.extractLsb' 8 8

/-- D = W[7:0] (R61). -/
def Word.operand (w : Word) : Byte := w.extractLsb' 0 8

/-- What the decoder answers: one of the twenty commands, or ILLEGAL with the code it rejects (R69). -/
inductive Decoded where
  /-- A command of R63 with its D. -/
  | command (i : Instr)
  /-- A code of R65. -/
  | illegal (code : Byte)
  deriving DecidableEq, Repr

/-- The command map of R63, read from code to command. -/
def decodeFields (cmd d : Byte) : Decoded :=
  match cmd with
  | 0x00#8 => .command (.nop d)
  | 0x01#8 => .command (.sreset d)
  | 0x02#8 => .command (.cmdStat d)
  | 0x03#8 => .command (.cmdClr d)
  | 0x10#8 => .command (.crcInit d)
  | 0x11#8 => .command (.crcFeed d)
  | 0x12#8 => .command (.crcRead d)
  | 0x20#8 => .command (.txStart d)
  | 0x21#8 => .command (.txPush d)
  | 0x22#8 => .command (.txEnd d)
  | 0x23#8 => .command (.txPop d)
  | 0x24#8 => .command (.txStat d)
  | 0x30#8 => .command (.rxStart d)
  | 0x31#8 => .command (.rxPush d)
  | 0x32#8 => .command (.rxEnd d)
  | 0x33#8 => .command (.rxStat d)
  | 0x34#8 => .command (.rxErr d)
  | 0x35#8 => .command (.rxRdlen d)
  | 0x36#8 => .command (.rxRdopc d)
  | 0x37#8 => .command (.rxPop d)
  | c => .illegal c

/-- The decoder: total on every 16-bit word (R69). -/
def decode (w : Word) : Decoded := decodeFields w.cmd w.operand

/-- The command map of R63, read from command to code. -/
def Instr.code : Instr → Byte
  | .nop _ => 0x00
  | .sreset _ => 0x01
  | .cmdStat _ => 0x02
  | .cmdClr _ => 0x03
  | .crcInit _ => 0x10
  | .crcFeed _ => 0x11
  | .crcRead _ => 0x12
  | .txStart _ => 0x20
  | .txPush _ => 0x21
  | .txEnd _ => 0x22
  | .txPop _ => 0x23
  | .txStat _ => 0x24
  | .rxStart _ => 0x30
  | .rxPush _ => 0x31
  | .rxEnd _ => 0x32
  | .rxStat _ => 0x33
  | .rxErr _ => 0x34
  | .rxRdlen _ => 0x35
  | .rxRdopc _ => 0x36
  | .rxPop _ => 0x37

/-- The encoder: the word 0xCCDD of R67. -/
def encode (i : Instr) : Word := i.code ++ i.operand

/-- The word that the table's numbering calls `w`, with `nbits` of its bits given and the rest 0. A command word is one
16-bit unit that the host hands over whole, so bit i of the word is bit i of the number (R8, R61). -/
def tableWord (nbits w : Nat) : Word := BitVec.ofNat 16 (w % 2 ^ nbits)

/-- The instruction the decoder reads from a table row's word. No command is longer than 16 bits (R61); log 16. -/
def decodeTableWord (nbits w : Nat) : Option Instr :=
  if nbits ≤ 16 then
    match decode (tableWord nbits w) with
    | .command i => some i
    | .illegal _ => none
  else none

end Sys2Proof
end

