-- ==== Sys2Proof/Machine/State.lean ====
section
/-! DEFINITION. The architectural state of 10_state.md rule R16, as plain data, the host's side of the interface, and reset. -/

namespace Sys2Proof.Machine

/-- A payload buffer: (entry index, byte) pairs in canonical form, indices strictly rising, no pair equal to what an
unlisted entry reads as. -/
abbrev Memory := List Host.Cell

/-- What an entry that nothing has written reads as. R39 leaves the contents after reset unspecified ("any bytes, or
zero"). DESIGN CHOICE: zero; log 8. -/
def Memory.unlisted : Byte := 0x00

/-- The canonical form: rising indices below 255, no entry that an unlisted one would read as. -/
abbrev Memory.wf (m : Memory) : Prop :=
  (m.map Prod.fst).Pairwise (· < ·) ∧ ∀ c ∈ m, c.1 < Config.bufferSize ∧ c.2 ≠ Memory.unlisted

/-- TXST, the serializer state (R19). Value 3 of the 2-bit register is never reached, so it has no constructor; log 14. -/
inductive TxSt where
  /-- IDLE (0): no frame is being built or emitted. -/
  | idle
  /-- OPEN (1): payload bytes are being accepted. -/
  | opened
  /-- READY (2): the frame's bytes are being read out. -/
  | ready
  deriving DecidableEq, Repr

/-- RXST, the deserializer state (R26): the frame field the next RX_PUSH byte is taken as. -/
inductive RxSt where
  /-- IDLE (0): no byte is accepted. -/
  | idle
  /-- PREFIX (1). -/
  | atPrefix
  /-- LEN (2). -/
  | atLen
  /-- OPC (3). -/
  | atOpc
  /-- PAYLOAD (4): payload byte RXCNT. -/
  | atPayload
  /-- CHK (5). -/
  | atChk
  /-- SUF (6). -/
  | atSuf
  /-- DONE (7): after the frame. -/
  | done
  deriving DecidableEq, Repr

/-- The four sticky flags TXSTAT[3:0] (R25). -/
structure TxFlags where
  /-- Bit 0, the source's InvalidPayload. -/
  invalidPayload : Bool
  /-- Bit 1, cause: no payload byte. -/
  empty : Bool
  /-- Bit 2, cause: a 256th payload byte. -/
  tooLong : Bool
  /-- Bit 3, cause: a payload byte with bit 7 set. -/
  nonAscii : Bool
  deriving DecidableEq, Repr

/-- All TX flags 0. -/
def TxFlags.clear : TxFlags := ⟨false, false, false, false⟩

/-- The six stored RXSTAT flags: the five errors, bits 4:0, and EXTRA, bit 7 (R34). -/
structure RxFlags where
  /-- Bit 0. -/
  badPrefix : Bool
  /-- Bit 1. -/
  badPostfix : Bool
  /-- Bit 2. -/
  badCrc : Bool
  /-- Bit 3. -/
  badEncoding : Bool
  /-- Bit 4. -/
  badDataSize : Bool
  /-- Bit 7, informational. -/
  extra : Bool
  deriving DecidableEq, Repr

/-- All RX flags 0. -/
def RxFlags.clear : RxFlags := ⟨false, false, false, false, false, false⟩

/-- The two CMDSTAT flags (R35). -/
structure CmdFlags where
  /-- Bit 0. -/
  illegal : Bool
  /-- Bit 1. -/
  sequence : Bool
  deriving DecidableEq, Repr

/-- Both CMDSTAT flags 0. -/
def CmdFlags.clear : CmdFlags := ⟨false, false⟩

/-- A response word (R64). -/
structure Resp where
  /-- Bit 8: the command returned data. -/
  valid : Bool
  /-- Bits 7:0. -/
  data : Byte
  deriving DecidableEq, Repr

/-- (0, 0x00), the response of a command that returns no data or raises an error (R64). -/
def Resp.none : Resp := ⟨false, 0x00⟩

/-- (1, b), the response that carries b (R64). -/
def Resp.ofByte (b : Byte) : Resp := ⟨true, b⟩

/-- The 9-bit word: VALID as bit 8, DATA as bits 7:0 (R64). -/
def Resp.word (r : Resp) : BitVec 9 := BitVec.ofBool r.valid ++ r.data

/-- The whole state: the table of R16, and the model's own two fields for the host's side of the interface. -/
structure State where
  /-- CRC, R18. -/
  crc : Byte
  /-- TXST, R19. -/
  txst : TxSt
  /-- TXOPC, R20. -/
  txopc : Byte
  /-- TXCNT, R21. -/
  txcnt : Byte
  /-- TXBUF, R22. -/
  txbuf : Memory
  /-- TXCRC, R23. -/
  txcrc : Byte
  /-- TXRD, R24. -/
  txrd : BitVec 9
  /-- The TXSTAT flags, R25. -/
  txflags : TxFlags
  /-- RXST, R26. -/
  rxst : RxSt
  /-- RXLEN, R27. -/
  rxlen : Byte
  /-- RXOPC, R28. -/
  rxopc : Byte
  /-- RXCNT, R29. -/
  rxcnt : Byte
  /-- RXBUF, R30. -/
  rxbuf : Memory
  /-- RXCHK, R31. -/
  rxchk : Byte
  /-- RXCRC, R32. -/
  rxcrc : Byte
  /-- RXRD, R33. -/
  rxrd : Byte
  /-- The RXSTAT flags, R34. -/
  rxflags : RxFlags
  /-- The CMDSTAT flags, R35. -/
  cmdflags : CmdFlags
  /-- The model's own: the command words the host has yet to issue, the next one first (R15, R184). DESIGN CHOICE; log 1. -/
  input : List Word
  /-- The model's own: the responses returned so far, oldest first (R64, R183). DESIGN CHOICE; log 2. -/
  resps : List Resp
  deriving DecidableEq, Repr

/-- Why the block could stop. The spec has no trap and no stop of its own (R158). -/
inductive Fault where
  /-- Raised by RX_PUSH in PAYLOAD with RXCNT = 255, which would write the entry RXBUF[255] that does not exist (R30).
  SAFE: R46 derives that no run from reset reaches such a state; log 11. -/
  | bufferIndex
  deriving DecidableEq, Repr

/-- Why the model could decline an instruction. -/
inductive Refusal where
  /-- Raised by an arm of exec whose instruction has no meaning yet. SAFE. No arm raises it: all twenty have a meaning. -/
  | notModelled (mnemonic : String)
  deriving DecidableEq, Repr

/-- What a command or a step answers. -/
abbrev Outcome := Host.Outcome State Fault Refusal

/-- The state right after power-on reset (R38, R171). The buffers' contents are unspecified there (R39); DESIGN CHOICE:
nothing listed, log 8. The host has issued nothing and the block has answered nothing: DESIGN CHOICE, log 1, log 2. -/
def State.reset : State where
  crc := Config.crcInit
  txst := .idle
  txopc := 0x00
  txcnt := 0
  txbuf := []
  txcrc := 0xFF
  txrd := 0
  txflags := TxFlags.clear
  rxst := .idle
  rxlen := 0
  rxopc := 0x00
  rxcnt := 0
  rxbuf := []
  rxchk := 0x00
  rxcrc := 0xFF
  rxrd := 0
  rxflags := RxFlags.clear
  cmdflags := CmdFlags.clear
  input := []
  resps := []

end Sys2Proof.Machine
end

