-- ==== Sys2Proof/Machine/Ops.lean ====
section
/-! DEFINITION. The operations every command shares: buffer access, answering, the two command errors (this hardware's whole
exception mechanism, R158), the CRC function, and taking the host's next command word. -/

namespace Sys2Proof.Machine

/-- BUF[i] (R10). -/
def Memory.read : Memory → Nat → Byte
  | [], _ => Memory.unlisted
  | (k, v) :: m, a => if k = a then v else Memory.read m a

/-- BUF[i] <- b (R10), kept in canonical form. -/
def Memory.write : Memory → Nat → Byte → Memory
  | [], a, b => if b = Memory.unlisted then [] else [(a, b)]
  | (k, v) :: m, a, b =>
    if a < k then (if b = Memory.unlisted then (k, v) :: m else (a, b) :: (k, v) :: m)
    else if a = k then (if b = Memory.unlisted then m else (a, b) :: m)
    else (k, v) :: Memory.write m a b

/-- BUF[0 .. n) (R9, R22, R30). -/
def Memory.slice (m : Memory) (n : Nat) : List Byte := (List.range n).map m.read

/-- RESP <- r: one response word per command (R64). -/
def State.respond (s : State) (r : Resp) : State := { s with resps := s.resps ++ [r] }

/-- A command that completes and returns no data: RESP <- (0, 0x00) (R64). -/
def complete (s : State) : Outcome := .next (s.respond Resp.none)

/-- A command that completes and returns the byte b: RESP <- (1, b) (R64). -/
def completeWith (b : Byte) (s : State) : Outcome := .next (s.respond (Resp.ofByte b))

/-- `raise SEQUENCE` (R10, R156): CMDSTAT.SEQUENCE <- 1, RESP <- (0, 0x00), no other state changes. -/
def raiseSequence (s : State) : Outcome :=
  .next ({ s with cmdflags := { s.cmdflags with sequence := true } }.respond Resp.none)

/-- `raise ILLEGAL` (R10, R157): CMDSTAT.ILLEGAL <- 1, RESP <- (0, 0x00), no other state changes. -/
def raiseIllegal (s : State) : Outcome :=
  .next ({ s with cmdflags := { s.cmdflags with illegal := true } }.respond Resp.none)

/-- The host's next command word, taken off the queue; none if the host has issued nothing (R17, R184). -/
def fetch (s : State) : Option (Word × State) :=
  match s.input with
  | [] => none
  | w :: ws => some (w, { s with input := ws })

/-- One shift of R81's loop: `r << 1`, and the polynomial folded in when bit 7 was set. -/
def crcShift (r : Byte) : Byte := if r.getLsbD 7 then (r <<< 1) ^^^ Config.crcPoly else r <<< 1

/-- n shifts. -/
def crcShifts : Nat → Byte → Byte
  | 0, r => r
  | n + 1, r => crcShifts n (crcShift r)

/-- crc_step(c, b) (R81). -/
def crcStep (c b : Byte) : Byte := crcShifts Config.crcWidth (c ^^^ b)

/-- The CRC of a byte list from a given initial value: `crc0` of R86(c) is this from 0x00. -/
def crcFrom (c : Byte) (bs : List Byte) : Byte := bs.foldl crcStep c

/-- crc8(s) (R82). -/
def crc8 (bs : List Byte) : Byte := crcFrom Config.crcInit bs ^^^ Config.crcXorOut

end Sys2Proof.Machine
end

