-- ==== Sys2Proof/Machine/Flags.lean ====
section
/-! DEFINITION. The status bytes (R25, R34, R35), the acceptance gate (R155) and the primary error code (R154). -/

namespace Sys2Proof.Machine

/-- The register value of TXST (R16, R19). -/
def TxSt.value : TxSt → BitVec 2
  | .idle => 0
  | .opened => 1
  | .ready => 2

/-- The register value of RXST (R16, R26). -/
def RxSt.value : RxSt → BitVec 3
  | .idle => 0
  | .atPrefix => 1
  | .atLen => 2
  | .atOpc => 3
  | .atPayload => 4
  | .atChk => 5
  | .atSuf => 6
  | .done => 7

/-- One status bit in its place: `b << i`, zero-extended to a byte (R8). -/
def bitAt (b : Bool) (i : Nat) : Byte := BitVec.zeroExtend 8 (BitVec.ofBool b) <<< i

/-- TXSTAT, the byte TX_STAT returns (R25, R97). -/
def State.txstat (s : State) : Byte :=
  bitAt s.txflags.invalidPayload 0 ||| bitAt s.txflags.empty 1 ||| bitAt s.txflags.tooLong 2 |||
    bitAt s.txflags.nonAscii 3 ||| bitAt (s.txst == .opened) 4 ||| bitAt (s.txst == .ready) 5

/-- Whether some bit of RXSTAT[4:0] is set (R34). -/
def RxFlags.anyBad (f : RxFlags) : Bool :=
  f.badPrefix || f.badPostfix || f.badCrc || f.badEncoding || f.badDataSize

/-- RXSTAT.VALID: RXST = DONE and RXSTAT[4:0] = 0, the acceptance gate (R34, R155). -/
def State.rxValid (s : State) : Bool := s.rxst == .done && !s.rxflags.anyBad

/-- RXSTAT[4:0], the `bad` of R116: the five error flags in their places, without EXTRA. -/
def RxFlags.bad (f : RxFlags) : Byte :=
  bitAt f.badPrefix 0 ||| bitAt f.badPostfix 1 ||| bitAt f.badCrc 2 ||| bitAt f.badEncoding 3 ||| bitAt f.badDataSize 4

/-- RXSTAT, the byte RX_STAT returns (R34, R116). -/
def State.rxstat (s : State) : Byte :=
  s.rxflags.bad ||| bitAt (s.rxst == .done) 5 ||| bitAt s.rxValid 6 ||| bitAt s.rxflags.extra 7

/-- CMDSTAT, the byte CMD_STAT returns (R35, R143). -/
def State.cmdstat (s : State) : Byte := bitAt s.cmdflags.illegal 0 ||| bitAt s.cmdflags.sequence 1

/-- The codes of the set error flags, in the order of R151. -/
def RxFlags.codes (f : RxFlags) : List Byte :=
  (if f.badPrefix then [1] else []) ++ (if f.badPostfix then [2] else []) ++ (if f.badCrc then [3] else []) ++
    (if f.badEncoding then [4] else []) ++ (if f.badDataSize then [5] else [])

/-- primary(f) with ERR_SELECT = PRIORITY (R154). -/
def primaryByPriority (f : RxFlags) : Byte :=
  if f.badPrefix then 1
  else if f.badDataSize then 5
  else if f.badPostfix then 2
  else if f.badCrc then 3
  else if f.badEncoding then 4
  else 0

/-- primary(f) with ERR_SELECT = ANY: a draw among the codes of the set flags, 0 if none (R154). -/
def primaryByDraw (draw : Nat) (f : RxFlags) : Byte := f.codes.getD (draw % f.codes.length) 0

/-- ERR_SELECT as RX_ERR reads it (R154). -/
def errSelect : ErrSelect := Config.errSelect

/-- primary(f) (R154). With no flag set, or with one, the two readings agree, so the choice is looked up only when
several are set. -/
def primary (draw : Nat) (f : RxFlags) : Byte :=
  match f.codes with
  | [] => 0
  | [c] => c
  | _ :: _ :: _ =>
    match errSelect with
    | .priority => primaryByPriority f
    | .any => primaryByDraw draw f

/-- The draw of ERR_SELECT = ANY: a free value that depends on the receive unit's registers only, since a command's
response is a function of the state (R5) and RX_ERR is idempotent (R117). Of RXSTAT it reads the error flags only: EXTRA
never affects RX_ERR (R117). DESIGN CHOICE; log 6. -/
def State.errDraw (s : State) : Nat :=
  Config.errDraw [s.rxst.value.zeroExtend 8, s.rxflags.bad, s.rxlen, s.rxopc, s.rxcnt, s.rxchk, s.rxcrc, s.rxrd]

end Sys2Proof.Machine
end

