-- ==== Sys2Proof/Machine/Control.lean ====
section
/-! DEFINITION. The control commands of 43_control.md (R141 to R145). -/

namespace Sys2Proof.Machine

/-- NOP (R141). -/
def execNop (s : State) : Outcome := complete s

/-- Every register of R16 at its reset value; the host's queue and the response log are the host's and stay (R142, R172).
The buffers' contents are unspecified after SRESET (R39); DESIGN CHOICE: as after power-on reset, log 9. -/
def State.softReset (s : State) : State := { State.reset with input := s.input, resps := s.resps }

/-- SRESET (R142). -/
def execSreset (s : State) : Outcome := complete s.softReset

/-- CMD_STAT (R143). -/
def execCmdStat (s : State) : Outcome := completeWith s.cmdstat s

/-- CMD_CLR (R144). -/
def execCmdClr (s : State) : Outcome := complete { s with cmdflags := CmdFlags.clear }

/-- A word whose code is not one of the twenty (R145). -/
def execIllegal (s : State) : Outcome := raiseIllegal s

end Sys2Proof.Machine
end

