-- ==== Sys2Proof/Machine/Crc.lean ====
section
/-! DEFINITION. The CRC unit's commands of 40_crc.md (R83 to R85). -/

namespace Sys2Proof.Machine

/-- CRC_INIT (R83). -/
def execCrcInit (s : State) : Outcome := complete { s with crc := Config.crcInit }

/-- CRC_FEED D (R84). -/
def execCrcFeed (d : Byte) (s : State) : Outcome := complete { s with crc := crcStep s.crc d }

/-- CRC_READ (R85). -/
def execCrcRead (s : State) : Outcome := completeWith s.crc s

end Sys2Proof.Machine
end

