-- ==== Sys2Proof/Machine/Operands.lean ====
section
/-! DEFINITION. What the data bytes are compared with and built from: the ASCII predicate (R12), the sentinels (R6, R36) and
the bytes of an outgoing frame (R95). D itself is used unsigned and unmodified (R62), so it needs no conversion. -/

namespace Sys2Proof.Machine

/-- ascii(b): bit 7 is clear (R12). -/
def isAscii (b : Byte) : Bool := !b.getLsbD 7

/-- ascii(s): every byte is ASCII; true of the empty list (R12). -/
def allAscii (bs : List Byte) : Bool := bs.all isAscii

/-- PREFIX_BYTE as the serializer and the deserializer read it (R36). -/
def prefixByte : Byte := Config.prefixByte

/-- SUFFIX_BYTE as the serializer and the deserializer read it (R36). -/
def suffixByte : Byte := Config.suffixByte

/-- OPCODE_CONSOLE as host programs read it (R36); no command does. -/
def opcodeConsole : Byte := Config.opcodeConsole

/-- txbyte(i), byte i of the frame held in READY (R95, R48). R95 gives a byte for i < 5 + TXCNT only; past that the byte
is a free value, log 10. -/
def txByte (s : State) (i : Nat) : Byte :=
  let len := s.txcnt.toNat
  if i = 0 then prefixByte
  else if i = 1 then s.txcnt
  else if i = 2 then s.txopc
  else if i ≤ 2 + len then s.txbuf.read (i - 3)
  else if i = 3 + len then s.txcrc
  else if i = 4 + len then suffixByte
  else Config.freeTxByte s.txcnt i

end Sys2Proof.Machine
end

