-- ==== Sys2Proof/Machine/Deserializer.lean ====
section
/-! DEFINITION. The deserializer's commands of 42_deserializer.md (R113 to R121). -/

namespace Sys2Proof.Machine

/-- RX_START (R113). -/
def execRxStart (s : State) : Outcome :=
  complete { s with
    rxst := .atPrefix
    rxlen := 0
    rxopc := 0x00
    rxcnt := 0
    rxchk := 0x00
    rxcrc := Config.crcInit
    rxrd := 0
    rxflags := RxFlags.clear }

/-- RX_PUSH in PREFIX (R114): parsing goes on whatever the byte (R118). -/
def rxPushPrefix (d : Byte) (s : State) : Outcome :=
  complete { s with
    rxflags := { s.rxflags with badPrefix := s.rxflags.badPrefix || d != prefixByte }
    rxst := .atLen }

/-- RX_PUSH in LEN (R114). -/
def rxPushLen (d : Byte) (s : State) : Outcome := complete { s with rxlen := d, rxst := .atOpc }

/-- RX_PUSH in OPC (R114). The opcode is not checked (R112). -/
def rxPushOpc (d : Byte) (s : State) : Outcome :=
  complete { s with
    rxopc := d
    rxcrc := crcStep Config.crcInit d
    rxflags := { s.rxflags with badDataSize := s.rxflags.badDataSize || s.rxlen == 0 }
    rxst := if s.rxlen = 0 then .atChk else .atPayload }

/-- RX_PUSH in PAYLOAD (R114). RXBUF[255] does not exist; no run gets there (R46), log 11. -/
def rxPushPayload (d : Byte) (s : State) : Outcome :=
  if s.rxcnt = 255 then .fault .bufferIndex
  else complete { s with
    rxbuf := s.rxbuf.write s.rxcnt.toNat d
    rxcnt := s.rxcnt + 1
    rxcrc := crcStep s.rxcrc d
    rxflags := { s.rxflags with badEncoding := s.rxflags.badEncoding || !isAscii d }
    rxst := if s.rxcnt.toNat + 1 = s.rxlen.toNat then .atChk else .atPayload }

/-- RX_PUSH in CHK (R114). -/
def rxPushChk (d : Byte) (s : State) : Outcome := complete { s with rxchk := d, rxst := .atSuf }

/-- RX_PUSH in SUF (R114). -/
def rxPushSuf (d : Byte) (s : State) : Outcome :=
  complete { s with
    rxflags := { s.rxflags with
      badPostfix := s.rxflags.badPostfix || d != suffixByte
      badCrc := s.rxflags.badCrc || s.rxchk != s.rxcrc }
    rxst := .done }

/-- RX_PUSH in DONE (R114, R179): the byte is ignored. -/
def rxPushDone (s : State) : Outcome := complete { s with rxflags := { s.rxflags with extra := true } }

/-- RX_PUSH D (R114). -/
def execRxPush (d : Byte) (s : State) : Outcome :=
  match s.rxst with
  | .idle => raiseSequence s
  | .atPrefix => rxPushPrefix d s
  | .atLen => rxPushLen d s
  | .atOpc => rxPushOpc d s
  | .atPayload => rxPushPayload d s
  | .atChk => rxPushChk d s
  | .atSuf => rxPushSuf d s
  | .done => rxPushDone s

/-- RX_END (R115). -/
def execRxEnd (s : State) : Outcome :=
  match s.rxst with
  | .idle => raiseSequence s
  | .done => complete s
  | .atPrefix | .atLen | .atOpc | .atPayload | .atChk | .atSuf =>
    complete { s with rxflags := { s.rxflags with badDataSize := true }, rxst := .done }

/-- RX_STAT (R116). -/
def execRxStat (s : State) : Outcome := completeWith s.rxstat s

/-- RX_ERR (R117). -/
def execRxErr (s : State) : Outcome := completeWith (primary s.errDraw s.rxflags) s

/-- RX_RDLEN (R119). -/
def execRxRdlen (s : State) : Outcome := if s.rxValid then completeWith s.rxlen s else raiseSequence s

/-- RX_RDOPC (R120). -/
def execRxRdopc (s : State) : Outcome := if s.rxValid then completeWith s.rxopc s else raiseSequence s

/-- RX_POP (R121). -/
def execRxPop (s : State) : Outcome :=
  if s.rxValid = true ∧ s.rxrd.toNat < s.rxlen.toNat then
    completeWith (s.rxbuf.read s.rxrd.toNat) { s with rxrd := s.rxrd + 1 }
  else raiseSequence s

end Sys2Proof.Machine
end

