-- ==== Sys2Proof/Machine/Serializer.lean ====
section
/-! DEFINITION. The serializer's commands of 41_serializer.md (R92 to R97). -/

namespace Sys2Proof.Machine

/-- TX_START D (R92). -/
def execTxStart (d : Byte) (s : State) : Outcome :=
  complete { s with
    txst := .opened
    txopc := d
    txcnt := 0
    txcrc := crcStep Config.crcInit d
    txrd := 0
    txflags := TxFlags.clear }

/-- TX_PUSH D (R93). -/
def execTxPush (d : Byte) (s : State) : Outcome :=
  if s.txst ≠ .opened then raiseSequence s
  else if s.txcnt = 255 then complete { s with txflags := { s.txflags with tooLong := true } }
  else complete { s with
    txbuf := s.txbuf.write s.txcnt.toNat d
    txcnt := s.txcnt + 1
    txcrc := crcStep s.txcrc d
    txflags := { s.txflags with nonAscii := s.txflags.nonAscii || !isAscii d } }

/-- TX_END (R94). -/
def execTxEnd (s : State) : Outcome :=
  let empty := s.txcnt == 0
  if s.txst ≠ .opened then raiseSequence s
  else if empty || s.txflags.tooLong || s.txflags.nonAscii then
    complete { s with
      txst := .idle
      txflags := { s.txflags with invalidPayload := true, empty := s.txflags.empty || empty } }
  else complete { s with txst := .ready, txrd := 0 }

/-- TX_POP (R96). Both tests read TXRD as it was before the command. -/
def execTxPop (s : State) : Outcome :=
  if s.txst ≠ .ready then raiseSequence s
  else completeWith (txByte s s.txrd.toNat) { s with
    txrd := s.txrd + 1
    txst := if s.txrd.toNat + 1 = 5 + s.txcnt.toNat then .idle else s.txst }

/-- TX_STAT (R97). -/
def execTxStat (s : State) : Outcome := completeWith s.txstat s

end Sys2Proof.Machine
end

