-- ==== Sys2Proof/Machine/Dispatch.lean ====
section
/-! DEFINITION. One arm per command: every one of the twenty has its meaning. -/

namespace Sys2Proof.Machine

/-- The effect of a decoded command. An arm that drops D is a command that ignores it (R62). -/
def exec (i : Instr) (s : State) : Host.Outcome State Fault Refusal :=
  match i with
  | .nop _ => Sys2Proof.Machine.execNop s
  | .sreset _ => Sys2Proof.Machine.execSreset s
  | .cmdStat _ => Sys2Proof.Machine.execCmdStat s
  | .cmdClr _ => Sys2Proof.Machine.execCmdClr s
  | .crcInit _ => Sys2Proof.Machine.execCrcInit s
  | .crcFeed d => Sys2Proof.Machine.execCrcFeed d s
  | .crcRead _ => Sys2Proof.Machine.execCrcRead s
  | .txStart d => Sys2Proof.Machine.execTxStart d s
  | .txPush d => Sys2Proof.Machine.execTxPush d s
  | .txEnd _ => Sys2Proof.Machine.execTxEnd s
  | .txPop _ => Sys2Proof.Machine.execTxPop s
  | .txStat _ => Sys2Proof.Machine.execTxStat s
  | .rxStart _ => Sys2Proof.Machine.execRxStart s
  | .rxPush d => Sys2Proof.Machine.execRxPush d s
  | .rxEnd _ => Sys2Proof.Machine.execRxEnd s
  | .rxStat _ => Sys2Proof.Machine.execRxStat s
  | .rxErr _ => Sys2Proof.Machine.execRxErr s
  | .rxRdlen _ => Sys2Proof.Machine.execRxRdlen s
  | .rxRdopc _ => Sys2Proof.Machine.execRxRdopc s
  | .rxPop _ => Sys2Proof.Machine.execRxPop s

end Sys2Proof.Machine
end

