-- ==== Sys2Proof/Machine/Step.lean ====
section
/-! DEFINITION. One step: the host's next command word, decoded and run. There is no program counter and no fetch from
memory (R17); the words come from the host's queue. -/

namespace Sys2Proof.Machine

/-- The effect of one command word: of its command, or of ILLEGAL (R69, R145). -/
def runWord (w : Word) (s : State) : Outcome :=
  match decode w with
  | .command i => exec i s
  | .illegal _ => execIllegal s

/-- One step (R5). With no word issued the block waits: nothing changes. DESIGN CHOICE; log 3. -/
def step (s : State) : Host.Outcome State Fault Refusal :=
  match fetch s with
  | none => .next s
  | some (w, s') => runWord w s'

/-- s with the given word as the next one the host issues; log 1. -/
def State.withFetchWord (s : State) (nbits w : Nat) : State := { s with input := tableWord nbits w :: s.input }

end Sys2Proof.Machine
end

