-- ==== Sys2Proof/Machine/Assembler.lean ====
section
/-! DEFINITION. The assembly notation of 30_encoding.md: pseudo-instructions as expansions into commands (R68), and the text
of one line (R67). Spacing, and what else a line may hold, are conventions of the model; log 17. -/

namespace Sys2Proof.Machine

/-- `CRC_OF b0, ..., bk` (R68). -/
def crcOf (bs : List Byte) : List Instr := [.crcInit 0] ++ bs.map Instr.crcFeed ++ [.crcRead 0]

/-- `TX_FRAME op, "s"` (R68). -/
def txFrame (op : Byte) (s : List Byte) : List Instr := [.txStart op] ++ s.map Instr.txPush ++ [.txEnd 0]

/-- `TX_DRAIN n` (R68). -/
def txDrain (n : Nat) : List Instr := List.replicate n (.txPop 0)

/-- `RX_FRAME b0, ..., bk` (R68). -/
def rxFrame (bs : List Byte) : List Instr := [.rxStart 0] ++ bs.map Instr.rxPush ++ [.rxEnd 0]

/-- `RX_DRAIN n` (R68). -/
def rxDrain (n : Nat) : List Instr := List.replicate n (.rxPop 0)

/-- `SEND_TEXT "t"` (R68): the payload is t and a newline, the opcode is OPCODE_CONSOLE. -/
def sendText (t : List Byte) : List Instr :=
  txFrame opcodeConsole (t ++ [0x0A]) ++ txDrain (Config.frameOverhead + t.length + 1)

/-- The words of a command list. -/
def words (is : List Instr) : List Word := is.map encode

/-- One piece of a line. -/
inductive Token where
  /-- A mnemonic or a directive. -/
  | name (cs : List Char)
  /-- A hexadecimal or decimal value. -/
  | num (n : Nat)
  /-- A character literal, as its ASCII code. -/
  | chr (b : Byte)
  /-- A string literal. -/
  | str (bs : List Byte)
  /-- A comma. -/
  | comma
  deriving DecidableEq, Repr

/-- The value of one hexadecimal digit. -/
def hexDigit (c : Char) : Option Nat :=
  let n := c.toNat
  if 48 ≤ n ∧ n ≤ 57 then some (n - 48)
  else if 65 ≤ n ∧ n ≤ 70 then some (n - 55)
  else if 97 ≤ n ∧ n ≤ 102 then some (n - 87)
  else none

/-- The value of digits in a base, `acc` before them. -/
def digitsValue (base acc : Nat) : List Char → Option Nat
  | [] => some acc
  | c :: cs =>
    match hexDigit c with
    | some d => if d < base then digitsValue base (acc * base + d) cs else none
    | none => none

/-- A number: `0xC0` or `192` (R67). -/
def numberValue : List Char → Option Nat
  | '0' :: 'x' :: c :: cs => digitsValue 16 0 (c :: cs)
  | c :: cs => digitsValue 10 0 (c :: cs)
  | [] => none

/-- One character of a literal, and what follows it: an escape n, r or 0, or the character's own ASCII code (R67). R67 does
not say what a backslash before any other character stands for: no meaning here, so the line is refused. DESIGN CHOICE;
log 17. -/
def literalChar : List Char → Option (Byte × List Char)
  | [] => none
  | c :: cs =>
    if c.toNat = 92 then
      match cs with
      | 'n' :: rest => some (0x0A, rest)
      | 'r' :: rest => some (0x0D, rest)
      | '0' :: rest => some (0x00, rest)
      | _ => none
    else if c.toNat < 128 then some (BitVec.ofNat 8 c.toNat, cs)
    else none

/-- The characters of a string literal up to the closing quote (code 34), and what follows it. -/
def literalString : Nat → List Char → Option (List Byte × List Char)
  | 0, _ => none
  | _ + 1, [] => none
  | fuel + 1, c :: cs =>
    if c.toNat = 34 then some ([], cs)
    else
      match literalChar (c :: cs) with
      | none => none
      | some (b, rest) =>
        match literalString fuel rest with
        | none => none
        | some (bs, rest') => some (b :: bs, rest')

/-- A character of a name or a number. -/
def isWordChar (c : Char) : Bool := c.isAlphanum || c == '_' || c == '.'

/-- The tokens of a line; `fuel` bounds the number of steps, one per token or blank. A comment starts with `;`. -/
def tokens : Nat → List Char → Option (List Token)
  | 0, _ => none
  | _ + 1, [] => some []
  | fuel + 1, c :: cs =>
    if c = ' ' then tokens fuel cs
    else if c = ';' then some []
    else if c = ',' then (tokens fuel cs).map (Token.comma :: ·)
    else if c.toNat = 39 then
      match literalChar cs with
      | some (b, q :: rest) => if q.toNat = 39 then (tokens fuel rest).map (Token.chr b :: ·) else none
      | _ => none
    else if c.toNat = 34 then
      match literalString (cs.length + 1) cs with
      | some (bs, rest) => (tokens fuel rest).map (Token.str bs :: ·)
      | none => none
    else
      let word := (c :: cs).takeWhile isWordChar
      let rest := (c :: cs).dropWhile isWordChar
      match word with
      | [] => none
      | w :: _ =>
        if w.isDigit then
          match numberValue word with
          | some n => (tokens fuel rest).map (Token.num n :: ·)
          | none => none
        else (tokens fuel rest).map (Token.name word :: ·)

/-- A byte operand: a number up to 255 or a character literal (R67). -/
def Token.byte : Token → Option Byte
  | .num n => if n < 256 then some (BitVec.ofNat 8 n) else none
  | .chr b => some b
  | .name _ | .str _ | .comma => none

/-- Byte operands separated by commas, at least one. -/
def byteList : List Token → Option (List Byte)
  | [] => none
  | [t] => t.byte.map ([·])
  | t :: .comma :: ts =>
    match t.byte, byteList ts with
    | some b, some bs => some (b :: bs)
    | _, _ => none
  | _ :: _ => none

/-- The mnemonics of the commands that ignore D, which are written without an operand (R67). -/
def plainCommand (m : List Char) : Option Instr :=
  if m = "NOP".toList then some (.nop 0)
  else if m = "SRESET".toList then some (.sreset 0)
  else if m = "CMD_STAT".toList then some (.cmdStat 0)
  else if m = "CMD_CLR".toList then some (.cmdClr 0)
  else if m = "CRC_INIT".toList then some (.crcInit 0)
  else if m = "CRC_READ".toList then some (.crcRead 0)
  else if m = "TX_END".toList then some (.txEnd 0)
  else if m = "TX_POP".toList then some (.txPop 0)
  else if m = "TX_STAT".toList then some (.txStat 0)
  else if m = "RX_START".toList then some (.rxStart 0)
  else if m = "RX_END".toList then some (.rxEnd 0)
  else if m = "RX_STAT".toList then some (.rxStat 0)
  else if m = "RX_ERR".toList then some (.rxErr 0)
  else if m = "RX_RDLEN".toList then some (.rxRdlen 0)
  else if m = "RX_RDOPC".toList then some (.rxRdopc 0)
  else if m = "RX_POP".toList then some (.rxPop 0)
  else none

/-- The mnemonics of the commands that use D (R62). -/
def byteCommand (m : List Char) (d : Byte) : Option Instr :=
  if m = "CRC_FEED".toList then some (.crcFeed d)
  else if m = "TX_START".toList then some (.txStart d)
  else if m = "TX_PUSH".toList then some (.txPush d)
  else if m = "RX_PUSH".toList then some (.rxPush d)
  else none

/-- The first answer that is one. -/
def orElse (a b : Option (List Word)) : Option (List Word) :=
  match a with
  | some ws => some ws
  | none => b

/-- A command with an operand, the raw word directive, or a pseudo-instruction that takes bytes or a count. -/
def operandLine (m : List Char) (ts : List Token) : Option (List Word) :=
  match ts with
  | [.str t] => if m = "SEND_TEXT".toList then some (words (sendText t)) else none
  | [o, .comma, .str t] =>
    if m = "TX_FRAME".toList then o.byte.map fun op => words (txFrame op t) else none
  | _ =>
    let counted :=
      match ts with
      | [.num n] =>
        if m = ".word".toList then (if n < 65536 then some [BitVec.ofNat 16 n] else none)
        else if m = "TX_DRAIN".toList then some (words (txDrain n))
        else if m = "RX_DRAIN".toList then some (words (rxDrain n))
        else none
      | _ => none
    orElse counted <|
      match byteList ts with
      | none => none
      | some bs =>
        if m = "CRC_OF".toList then some (words (crcOf bs))
        else if m = "RX_FRAME".toList then some (words (rxFrame bs))
        else
          match bs with
          | [d] => (byteCommand m d).map fun i => words [i]
          | _ => none

/-- The words one line of assembly stands for (R67, R68), or none where the line has no meaning. -/
def assembleLine (line : List Char) : Option (List Word) :=
  match tokens (line.length + 1) line with
  | none => none
  | some [] => some []
  | some [.name m] => (plainCommand m).map fun i => words [i]
  | some (.name m :: ts) => operandLine m ts
  | some (_ :: _) => none

/-- The words of a program, one line after another; none if some line has no meaning. -/
def assemble : List (List Char) → Option (List Word)
  | [] => some []
  | l :: ls =>
    match assembleLine l, assemble ls with
    | some ws, some rest => some (ws ++ rest)
    | _, _ => none

end Sys2Proof.Machine
end

