-- ==== Sys2Proof/Machine/Frame.lean ====
section
/-! DEFINITION. The whole-frame reference functions: `encode` (R91), `decode` (R111) and the valid frame (R13). No command
calls them; R98 and R122 say that the commands' runs agree with them. -/

namespace Sys2Proof.Machine

/-- The answer of `encode` (R91). -/
inductive EncodeResult where
  /-- Ok(frame). -/
  | ok (frame : List Byte)
  /-- Err(InvalidPayload). -/
  | invalidPayload
  deriving DecidableEq, Repr

/-- encode(O, P) (R91). -/
def encodeFrame (o : Byte) (p : List Byte) : EncodeResult :=
  if p.length < Config.minPayload ∨ Config.maxPayload < p.length ∨ allAscii p = false then .invalidPayload
  else .ok ([prefixByte, BitVec.ofNat 8 p.length, o] ++ p ++ [crc8 (o :: p), suffixByte])

/-- The answer of `decode` (R111). -/
structure FrameResult where
  /-- The flag set f. -/
  flags : RxFlags
  /-- The verdict. -/
  valid : Bool
  /-- L. -/
  len : Byte
  /-- O. -/
  opc : Byte
  /-- P, the payload bytes present. -/
  payload : List Byte
  deriving DecidableEq, Repr

/-- decode(in) (R111). -/
def decodeFrame (inp : List Byte) : FrameResult :=
  let n := inp.length
  let len : Byte := if 2 ≤ n then inp.getD 1 0 else 0
  let opc : Byte := if 3 ≤ n then inp.getD 2 0 else 0
  let payload := if 3 ≤ n then (inp.drop 3).take len.toNat else []
  let whole := decide (5 + len.toNat ≤ n)
  let flags : RxFlags :=
    { badPrefix := decide (1 ≤ n) && inp.getD 0 0 != prefixByte
      badPostfix := whole && inp.getD (4 + len.toNat) 0 != suffixByte
      badCrc := whole && inp.getD (3 + len.toNat) 0 != crc8 (opc :: payload)
      badEncoding := decide (3 ≤ n) && !allAscii payload
      badDataSize := (decide (3 ≤ n) && len == 0) || !whole
      extra := whole && decide (5 + len.toNat < n) }
  { flags := flags
    valid := !(flags.badPrefix || flags.badPostfix || flags.badCrc || flags.badEncoding || flags.badDataSize)
    len := len
    opc := opc
    payload := payload }

/-- A valid frame: the four invariants of R13, with L = f[1] and O = f[2]. -/
def validFrame (f : List Byte) : Bool :=
  let len := (f.getD 1 0).toNat
  decide (f.length = 5 + len) && decide (1 ≤ len) &&
    f.getD 0 0 == prefixByte && f.getD (4 + len) 0 == suffixByte &&
    allAscii ((f.drop 3).take len) &&
    f.getD (3 + len) 0 == crc8 (f.getD 2 0 :: (f.drop 3).take len)

/-- The byte list with bit j of byte k flipped, the corruption of R86(d) and R124. -/
def flipBit (bs : List Byte) (k j : Nat) : List Byte := bs.set k (bs.getD k 0 ^^^ (1#8 <<< j))

/-- Bytewise exclusive-or, the ⊕ of R86(c). -/
def xorBytes (s e : List Byte) : List Byte := List.zipWith (· ^^^ ·) s e

/-- How many bits of a byte list are set. -/
def weight (bs : List Byte) : Nat := (bs.map fun b => ((List.range 8).filter b.getLsbD).length).sum

/-- n zero bytes with bit p set, bit 0 being the least significant bit of the last byte: the error x^p of R86. -/
def bitError (n p : Nat) : List Byte := flipBit (List.replicate n 0) (n - 1 - p / 8) (p % 8)

end Sys2Proof.Machine
end

