-- ==== Sys2Proof/Safety.lean ====
section
/-! DEFINITION. What claims are stated in terms of: a run (R183), a faulted run, a frame's outcome, the invariants of R40 and
those they rest on, and which part of the state belongs to which unit (R47). -/

namespace Sys2Proof.Machine

/-- A run: the host issues these words, and the block runs every one (R183). The words take the place of whatever the queue
held. -/
def issue (ws : List Word) (s : State) : Outcome :=
  Host.Core.run Sys2Proof.core ws.length { s with input := ws }

/-- A run has faulted when CMDSTAT is not 0 at its end (R183). -/
def State.faulted (s : State) : Bool := s.cmdflags.illegal || s.cmdflags.sequence

/-- The received frame is neither accepted nor rejected: RXST is in PREFIX..SUF (R183). -/
def State.rxUndecided (s : State) : Bool := s.rxst != .idle && s.rxst != .done

/-- The serializer is in a final state (R183). -/
def State.txFinal (s : State) : Bool := s.txst == .idle

/-- What every command boundary keeps. The lettered items of R40 and the derived equations of R23 and R32 are named after
them; the others are what those rest on. R40(a) is the width of TXCNT. -/
structure State.Inv (s : State) : Prop where
  /-- TXBUF is in canonical form. -/
  txbuf_wf : s.txbuf.wf
  /-- RXBUF is in canonical form. -/
  rxbuf_wf : s.rxbuf.wf
  /-- In OPEN no byte is read out yet and TX_END has not judged. -/
  tx_opened : s.txst = .opened → s.txrd = 0 ∧ s.txflags.invalidPayload = false ∧ s.txflags.empty = false
  /-- TOOLONG is set only by a push that found TXCNT = 255. -/
  tx_tooLong : s.txflags.tooLong = true → s.txcnt = 255
  /-- In OPEN, NONASCII says that some accepted byte is not ASCII; in READY none is. -/
  tx_nonAscii : s.txst ≠ .idle → s.txflags.nonAscii = !allAscii (s.txbuf.slice s.txcnt.toNat)
  /-- R23. -/
  r23 : s.txst ≠ .idle → s.txcrc = crc8 (s.txopc :: s.txbuf.slice s.txcnt.toNat)
  /-- R40(b). -/
  r40b : s.txst = .ready →
    s.txrd.toNat < 5 + s.txcnt.toNat ∧ 1 ≤ s.txcnt.toNat ∧ s.txflags = TxFlags.clear
  /-- R40(c). -/
  r40c : s.txst = .idle → s.txrd.toNat = 0 ∨ s.txrd.toNat = 5 + s.txcnt.toNat
  /-- R40(d). -/
  r40d : s.rxcnt.toNat ≤ s.rxlen.toNat
  /-- R40(e). -/
  r40e : s.rxst = .atChk ∨ s.rxst = .atSuf → s.rxcnt = s.rxlen
  /-- R40(f). -/
  r40f : s.rxst = .idle →
    s.rxlen = 0 ∧ s.rxopc = 0 ∧ s.rxcnt = 0 ∧ s.rxchk = 0 ∧ s.rxcrc = Config.crcInit ∧ s.rxrd = 0 ∧
      s.rxflags = RxFlags.clear
  /-- R40(g). -/
  r40g : s.rxrd.toNat ≤ s.rxlen.toNat
  /-- No byte is read out before DONE. -/
  rx_unread : s.rxst ≠ .done → s.rxrd = 0
  /-- No payload byte before the header is complete. -/
  rx_header : s.rxst = .atPrefix ∨ s.rxst = .atLen ∨ s.rxst = .atOpc → s.rxcnt = 0
  /-- In PAYLOAD at least one payload byte is still to come. -/
  rx_payload : s.rxst = .atPayload → s.rxcnt.toNat < s.rxlen.toNat
  /-- A zero length is on record once the opcode is in. -/
  rx_zeroLen : s.rxst = .atPayload ∨ s.rxst = .atChk ∨ s.rxst = .atSuf ∨ s.rxst = .done →
    s.rxlen = 0 → s.rxflags.badDataSize = true
  /-- R32: once the state is past OPC. -/
  r32 : s.rxst = .atPayload ∨ s.rxst = .atChk ∨ s.rxst = .atSuf →
    s.rxcrc = crc8 (s.rxopc :: s.rxbuf.slice s.rxcnt.toNat)
  /-- BAD_ENCODING says that some received payload byte is not ASCII. -/
  rx_encoding : s.rxflags.badEncoding = !allAscii (s.rxbuf.slice s.rxcnt.toNat)
  /-- An accepted frame is complete, its checksum agrees and R32 holds of it. -/
  rx_accepted : s.rxst = .done → s.rxflags.badDataSize = false →
    s.rxcnt = s.rxlen ∧ s.rxcrc = crc8 (s.rxopc :: s.rxbuf.slice s.rxcnt.toNat) ∧
      (s.rxflags.badCrc = false → s.rxchk = s.rxcrc)

/-- The registers and the buffer of the serializer are the same (R47). -/
def sameTx (s t : State) : Prop :=
  s.txst = t.txst ∧ s.txopc = t.txopc ∧ s.txcnt = t.txcnt ∧ s.txbuf = t.txbuf ∧ s.txcrc = t.txcrc ∧
    s.txrd = t.txrd ∧ s.txflags = t.txflags

/-- The registers and the buffer of the deserializer are the same (R47). -/
def sameRx (s t : State) : Prop :=
  s.rxst = t.rxst ∧ s.rxlen = t.rxlen ∧ s.rxopc = t.rxopc ∧ s.rxcnt = t.rxcnt ∧ s.rxbuf = t.rxbuf ∧
    s.rxchk = t.rxchk ∧ s.rxcrc = t.rxcrc ∧ s.rxrd = t.rxrd ∧ s.rxflags = t.rxflags

/-- Equal but for what the buffers hold past the current frame's bytes, TXBUF[TXCNT ..] and RXBUF[RXCNT ..], which R39
calls unobservable. -/
def sameButStale (s t : State) : Prop :=
  t = { s with txbuf := t.txbuf, rxbuf := t.rxbuf } ∧
    s.txbuf.slice s.txcnt.toNat = t.txbuf.slice s.txcnt.toNat ∧
    s.rxbuf.slice s.rxcnt.toNat = t.rxbuf.slice s.rxcnt.toNat

/-- A command of the CRC unit. -/
def isCrcCommand : Instr → Bool
  | .crcInit _ | .crcFeed _ | .crcRead _ => true
  | .nop _ | .sreset _ | .cmdStat _ | .cmdClr _ | .txStart _ | .txPush _ | .txEnd _ | .txPop _ | .txStat _
  | .rxStart _ | .rxPush _ | .rxEnd _ | .rxStat _ | .rxErr _ | .rxRdlen _ | .rxRdopc _ | .rxPop _ => false

/-- A command of the serializer. -/
def isTxCommand : Instr → Bool
  | .txStart _ | .txPush _ | .txEnd _ | .txPop _ | .txStat _ => true
  | .nop _ | .sreset _ | .cmdStat _ | .cmdClr _ | .crcInit _ | .crcFeed _ | .crcRead _
  | .rxStart _ | .rxPush _ | .rxEnd _ | .rxStat _ | .rxErr _ | .rxRdlen _ | .rxRdopc _ | .rxPop _ => false

/-- A command of the deserializer. -/
def isRxCommand : Instr → Bool
  | .rxStart _ | .rxPush _ | .rxEnd _ | .rxStat _ | .rxErr _ | .rxRdlen _ | .rxRdopc _ | .rxPop _ => true
  | .nop _ | .sreset _ | .cmdStat _ | .cmdClr _ | .crcInit _ | .crcFeed _ | .crcRead _
  | .txStart _ | .txPush _ | .txEnd _ | .txPop _ | .txStat _ => false

/-- Whether the command's rule permits it in this state (R156). -/
def permitted (i : Instr) (s : State) : Bool :=
  match i with
  | .txPush _ | .txEnd _ => s.txst == .opened
  | .txPop _ => s.txst == .ready
  | .rxPush _ | .rxEnd _ => s.rxst != .idle
  | .rxRdlen _ | .rxRdopc _ => s.rxValid
  | .rxPop _ => s.rxValid && decide (s.rxrd.toNat < s.rxlen.toNat)
  | .nop _ | .sreset _ | .cmdStat _ | .cmdClr _ | .crcInit _ | .crcFeed _ | .crcRead _ | .txStart _ | .txStat _
  | .rxStart _ | .rxStat _ | .rxErr _ => true

end Sys2Proof.Machine
end

