-- ==== Sys2Proof/Certificates/Slice0/Obligations.lean ====
section
/-! DEFINITION. The statements for the provers, each formalising a numbered rule of spec/ or resting on one. -/

open Sys2Proof Sys2Proof.Machine

/-! ## Encoding -/

/-- R61, R63: every command word, read bit by bit from the table: the code in bits 15:8, D in bits 7:0. -/
def Obligations.DecoderReadsEveryCommandWord : Prop :=
  ∀ d : Byte,
    decode (0x00#8 ++ d) = .command (.nop d) ∧ decode (0x01#8 ++ d) = .command (.sreset d) ∧
    decode (0x02#8 ++ d) = .command (.cmdStat d) ∧ decode (0x03#8 ++ d) = .command (.cmdClr d) ∧
    decode (0x10#8 ++ d) = .command (.crcInit d) ∧ decode (0x11#8 ++ d) = .command (.crcFeed d) ∧
    decode (0x12#8 ++ d) = .command (.crcRead d) ∧ decode (0x20#8 ++ d) = .command (.txStart d) ∧
    decode (0x21#8 ++ d) = .command (.txPush d) ∧ decode (0x22#8 ++ d) = .command (.txEnd d) ∧
    decode (0x23#8 ++ d) = .command (.txPop d) ∧ decode (0x24#8 ++ d) = .command (.txStat d) ∧
    decode (0x30#8 ++ d) = .command (.rxStart d) ∧ decode (0x31#8 ++ d) = .command (.rxPush d) ∧
    decode (0x32#8 ++ d) = .command (.rxEnd d) ∧ decode (0x33#8 ++ d) = .command (.rxStat d) ∧
    decode (0x34#8 ++ d) = .command (.rxErr d) ∧ decode (0x35#8 ++ d) = .command (.rxRdlen d) ∧
    decode (0x36#8 ++ d) = .command (.rxRdopc d) ∧ decode (0x37#8 ++ d) = .command (.rxPop d)

/-- R61, R66, R69: decoding an encoded command gives it back, with every operand byte. -/
def Obligations.DecodeOfEncodeIsIdentity : Prop := ∀ i : Instr, decode (encode i) = .command i

/-- R61, R66, R69: no bit of a legal word is dropped, and encoding is the only way to get it. -/
def Obligations.EncodeOfDecodeIsIdentity : Prop :=
  ∀ (w : Word) (i : Instr), decode w = .command i → encode i = w

/-- R65: a word is rejected exactly when bits 15:8 lie in one of the four ranges, and then by its code. -/
def Obligations.DecoderRejectsExactlyIllegalCodes : Prop :=
  ∀ w : Word,
    let n := (w.extractLsb' 8 8).toNat
    ((∃ c, decode w = .illegal c) ↔
      (0x04 ≤ n ∧ n ≤ 0x0F) ∨ (0x13 ≤ n ∧ n ≤ 0x1F) ∨ (0x25 ≤ n ∧ n ≤ 0x2F) ∨ (0x38 ≤ n ∧ n ≤ 0xFF)) ∧
    ∀ c, decode w = .illegal c → c = w.extractLsb' 8 8

/-! ## A step runs the decoded command -/

/-- R5, R184: when the host's next word decodes to a command, the step is that command's effect on the state with the
word taken off the queue, whatever the command's D. -/
def Obligations.StepRunsDecodedCommand : Prop :=
  ∀ (s : State) (w : Word) (ws : List Word) (i : Instr),
    s.input = w :: ws → decode w = .command i → step s = exec i { s with input := ws }

/-- R65, R145, R157: a word with an undefined code sets CMDSTAT.ILLEGAL, answers (0, 0x00) and changes nothing else. -/
def Obligations.IllegalWordSetsIllegalOnly : Prop :=
  ∀ (s : State) (w : Word) (ws : List Word) (c : Byte),
    s.input = w :: ws → decode w = .illegal c →
      step s = .next { s with
        cmdflags := ⟨true, s.cmdflags.sequence⟩, input := ws, resps := s.resps ++ [⟨false, 0x00⟩] }

/-- The model's choice, log 3: a block to which the host has issued nothing stays as it is. -/
def Obligations.WaitingBlockIsUnchanged : Prop := ∀ s : State, s.input = [] → step s = .next s

/-- R64: a step on a command word answers exactly one response word, and one without data carries 0x00. -/
def Obligations.OneResponsePerCommand : Prop :=
  ∀ (s t : State) (w : Word) (ws : List Word),
    s.input = w :: ws → step s = .next t →
      t.input = ws ∧ ∃ r : Resp, t.resps = s.resps ++ [r] ∧ (r.valid = false → r.data = 0x00)

/-! ## Control commands -/

/-- R141. -/
def Obligations.NopDoesNothing : Prop :=
  ∀ (d : Byte) (s : State),
    decode (0x00#8 ++ d) = .command (.nop d) ∧
    exec (.nop d) s = .next { s with resps := s.resps ++ [⟨false, 0x00⟩] }

/-- R142, R38: every register takes its reset value. What the buffers hold afterwards is unspecified (R39), so the
statement names no value for them. The queue and the response log are the host's. -/
def Obligations.SresetRestoresResetValues : Prop :=
  ∀ (d : Byte) (s : State),
    decode (0x01#8 ++ d) = .command (.sreset d) ∧
    ∃ txb rxb : Memory, exec (.sreset d) s = .next {
      crc := 0xFF
      txst := .idle, txopc := 0, txcnt := 0, txbuf := txb, txcrc := 0xFF, txrd := 0
      txflags := ⟨false, false, false, false⟩
      rxst := .idle, rxlen := 0, rxopc := 0, rxcnt := 0, rxbuf := rxb, rxchk := 0, rxcrc := 0xFF, rxrd := 0
      rxflags := ⟨false, false, false, false, false, false⟩
      cmdflags := ⟨false, false⟩
      input := s.input, resps := s.resps ++ [⟨false, 0x00⟩] }

/-- R38, R171: the registers after power-on reset. -/
def Obligations.PowerOnResetValues : Prop :=
  let s := State.reset
  s.crc = 0xFF ∧
  s.txst = .idle ∧ s.txopc = 0 ∧ s.txcnt = 0 ∧ s.txcrc = 0xFF ∧ s.txrd = 0 ∧ s.txflags = ⟨false, false, false, false⟩ ∧
  s.rxst = .idle ∧ s.rxlen = 0 ∧ s.rxopc = 0 ∧ s.rxcnt = 0 ∧ s.rxchk = 0 ∧ s.rxcrc = 0xFF ∧ s.rxrd = 0 ∧
  s.rxflags = ⟨false, false, false, false, false, false⟩ ∧ s.cmdflags = ⟨false, false⟩

/-- R143, R35: ILLEGAL in bit 0, SEQUENCE in bit 1, bits 7:2 zero, and nothing changes. -/
def Obligations.CmdStatReturnsCommandFlags : Prop :=
  ∀ (d : Byte) (s : State),
    decode (0x02#8 ++ d) = .command (.cmdStat d) ∧
    ∃ b : Byte, exec (.cmdStat d) s = .next { s with resps := s.resps ++ [⟨true, b⟩] } ∧
      b.getLsbD 0 = s.cmdflags.illegal ∧ b.getLsbD 1 = s.cmdflags.sequence ∧ ∀ k, 2 ≤ k → b.getLsbD k = false

/-- R144. -/
def Obligations.CmdClrClearsCommandFlags : Prop :=
  ∀ (d : Byte) (s : State),
    decode (0x03#8 ++ d) = .command (.cmdClr d) ∧
    exec (.cmdClr d) s = .next { s with cmdflags := ⟨false, false⟩, resps := s.resps ++ [⟨false, 0x00⟩] }

/-! ## CRC unit -/

/-- R83. -/
def Obligations.CrcInitLoadsInitialValue : Prop :=
  ∀ (d : Byte) (s : State),
    decode (0x10#8 ++ d) = .command (.crcInit d) ∧
    exec (.crcInit d) s = .next { s with crc := 0xFF, resps := s.resps ++ [⟨false, 0x00⟩] }

/-- R84. -/
def Obligations.CrcFeedFoldsOneByte : Prop :=
  ∀ (d : Byte) (s : State),
    decode (0x11#8 ++ d) = .command (.crcFeed d) ∧
    exec (.crcFeed d) s = .next { s with crc := crcStep s.crc d, resps := s.resps ++ [⟨false, 0x00⟩] }

/-- R85. -/
def Obligations.CrcReadReturnsAccumulator : Prop :=
  ∀ (d : Byte) (s : State),
    decode (0x12#8 ++ d) = .command (.crcRead d) ∧
    exec (.crcRead d) s = .next { s with resps := s.resps ++ [⟨true, s.crc⟩] }

/-- R84, R82: CRC_OF over any bytes, from any state, answers their crc8 and leaves it in CRC; no other register changes. -/
def Obligations.CrcOfRunReturnsCrc8 : Prop :=
  ∀ (s : State) (bs : List Byte),
    issue (words (crcOf bs)) s = .next { s with
      crc := crc8 bs
      input := []
      resps := s.resps ++ List.replicate (bs.length + 1) ⟨false, 0x00⟩ ++ [⟨true, crc8 bs⟩] }

/-- R86(a), R86(b): the catalogue check value, over "123456789", and the zero residue of every list with its own CRC. -/
def Obligations.CrcCheckValueAndResidue : Prop :=
  crc8 [0x31, 0x32, 0x33, 0x34, 0x35, 0x36, 0x37, 0x38, 0x39] = 0xF7 ∧
  ∀ s : List Byte, crc8 (s ++ [crc8 s]) = 0x00

/-- R86(c). -/
def Obligations.CrcIsAffine : Prop :=
  ∀ s e : List Byte, s.length = e.length → crc8 (xorBytes s e) = crc8 s ^^^ crcFrom 0x00 e

/-- R86(d): an error of exactly one bit, anywhere in n bytes, has a non-zero crc0. -/
def Obligations.SingleBitErrorIsDetected : Prop := ∀ n p : Nat, p < 8 * n → crcFrom 0x00 (bitError n p) ≠ 0x00

/-- R86(e): an error of odd weight has a non-zero crc0. -/
def Obligations.OddWeightErrorIsDetected : Prop := ∀ e : List Byte, weight e % 2 = 1 → crcFrom 0x00 e ≠ 0x00

/-- R86(f): two bit errors escape exactly when they lie a multiple of 127 bit positions apart. -/
def Obligations.DoubleBitErrorEscapesIff127Apart : Prop :=
  ∀ n p q : Nat, p < q → q < 8 * n →
    (crcFrom 0x00 (xorBytes (bitError n p) (bitError n q)) = 0x00 ↔ 127 ∣ q - p)

/-! ## Serializer -/

/-- R92. -/
def Obligations.TxStartOpensFrame : Prop :=
  ∀ (d : Byte) (s : State),
    decode (0x20#8 ++ d) = .command (.txStart d) ∧
    exec (.txStart d) s = .next { s with
      txst := .opened, txopc := d, txcnt := 0, txcrc := crcStep 0xFF d, txrd := 0
      txflags := ⟨false, false, false, false⟩, resps := s.resps ++ [⟨false, 0x00⟩] }

/-- R93: the three branches. -/
def Obligations.TxPushAppendsOrMarksTooLong : Prop :=
  ∀ (d : Byte) (s : State),
    decode (0x21#8 ++ d) = .command (.txPush d) ∧
    (s.txst ≠ .opened → exec (.txPush d) s = .next { s with
      cmdflags := ⟨s.cmdflags.illegal, true⟩, resps := s.resps ++ [⟨false, 0x00⟩] }) ∧
    (s.txst = .opened → s.txcnt = 255 → exec (.txPush d) s = .next { s with
      txflags := { s.txflags with tooLong := true }, resps := s.resps ++ [⟨false, 0x00⟩] }) ∧
    (s.txst = .opened → s.txcnt ≠ 255 → exec (.txPush d) s = .next { s with
      txbuf := s.txbuf.write s.txcnt.toNat d
      txcnt := s.txcnt + 1
      txcrc := crcStep s.txcrc d
      txflags := { s.txflags with nonAscii := s.txflags.nonAscii || d.getLsbD 7 }
      resps := s.resps ++ [⟨false, 0x00⟩] })

/-- R94: the three branches; `empty` is set when TXCNT = 0 and kept otherwise. -/
def Obligations.TxEndAcceptsOrRejectsPayload : Prop :=
  ∀ (d : Byte) (s : State),
    decode (0x22#8 ++ d) = .command (.txEnd d) ∧
    (s.txst ≠ .opened → exec (.txEnd d) s = .next { s with
      cmdflags := ⟨s.cmdflags.illegal, true⟩, resps := s.resps ++ [⟨false, 0x00⟩] }) ∧
    (s.txst = .opened → s.txcnt = 0 → exec (.txEnd d) s = .next { s with
      txst := .idle
      txflags := { s.txflags with invalidPayload := true, empty := true }
      resps := s.resps ++ [⟨false, 0x00⟩] }) ∧
    (s.txst = .opened → s.txcnt ≠ 0 → s.txflags.tooLong = true ∨ s.txflags.nonAscii = true →
      exec (.txEnd d) s = .next { s with
        txst := .idle
        txflags := { s.txflags with invalidPayload := true }
        resps := s.resps ++ [⟨false, 0x00⟩] }) ∧
    (s.txst = .opened → s.txcnt ≠ 0 → s.txflags.tooLong = false → s.txflags.nonAscii = false →
      exec (.txEnd d) s = .next { s with txst := .ready, txrd := 0, resps := s.resps ++ [⟨false, 0x00⟩] })

/-- R96, R95: in READY one frame byte is returned, by its offset, and the state turns IDLE on the suffix. Past the suffix,
which no run reaches, the byte is a free value (log 10) and the command still completes. -/
def Obligations.TxPopReturnsNextFrameByte : Prop :=
  ∀ (d : Byte) (s : State),
    decode (0x23#8 ++ d) = .command (.txPop d) ∧
    (s.txst ≠ .ready → exec (.txPop d) s = .next { s with
      cmdflags := ⟨s.cmdflags.illegal, true⟩, resps := s.resps ++ [⟨false, 0x00⟩] }) ∧
    (s.txst = .ready → ∃ b : Byte,
      exec (.txPop d) s = .next { s with
        txrd := s.txrd + 1
        txst := if s.txrd.toNat + 1 = 5 + s.txcnt.toNat then .idle else .ready
        resps := s.resps ++ [⟨true, b⟩] } ∧
      let i := s.txrd.toNat
      let len := s.txcnt.toNat
      (i = 0 → b = prefixByte) ∧ (i = 1 → b = s.txcnt) ∧ (i = 2 → b = s.txopc) ∧
      (3 ≤ i → i ≤ 2 + len → b = s.txbuf.read (i - 3)) ∧
      (3 ≤ i → i = 3 + len → b = s.txcrc) ∧ (3 ≤ i → i = 4 + len → b = suffixByte))

/-- R97, R25: the six bits of TXSTAT, bits 7:6 zero, and nothing changes. -/
def Obligations.TxStatReturnsSerializerStatus : Prop :=
  ∀ (d : Byte) (s : State),
    decode (0x24#8 ++ d) = .command (.txStat d) ∧
    ∃ b : Byte, exec (.txStat d) s = .next { s with resps := s.resps ++ [⟨true, b⟩] } ∧
      b.getLsbD 0 = s.txflags.invalidPayload ∧ b.getLsbD 1 = s.txflags.empty ∧ b.getLsbD 2 = s.txflags.tooLong ∧
      b.getLsbD 3 = s.txflags.nonAscii ∧ b.getLsbD 4 = decide (s.txst = .opened) ∧
      b.getLsbD 5 = decide (s.txst = .ready) ∧ ∀ k, 6 ≤ k → b.getLsbD k = false

/-- R98: from any state (its TXBUF in canonical form, which StepKeepsInvariant says every run keeps), the run of TX_FRAME
agrees with encode, and the drain returns the frame or nothing. -/
def Obligations.SerializerRunMatchesEncode : Prop :=
  ∀ (s : State) (o : Byte) (p : List Byte), s.txbuf.wf →
    ∃ t, issue (words (txFrame o p)) s = .next t ∧
      t.cmdflags = s.cmdflags ∧ t.resps = s.resps ++ List.replicate (p.length + 2) ⟨false, 0x00⟩ ∧
      (∀ f, encodeFrame o p = .ok f →
        t.txst = .ready ∧
        (∃ t', issue (words [.txStat 0]) t = .next t' ∧ t'.resps = t.resps ++ [⟨true, 0x20⟩]) ∧
        ∃ u, issue (words (txDrain f.length)) t = .next u ∧
          u.resps = t.resps ++ f.map (⟨true, ·⟩) ∧ u.txst = .idle ∧ u.cmdflags = s.cmdflags ∧
          ∃ v, issue (words (txDrain 1)) u = .next v ∧ v.cmdflags.sequence = true ∧
            v.resps = u.resps ++ [⟨false, 0x00⟩]) ∧
      (encodeFrame o p = .invalidPayload →
        t.txst = .idle ∧ t.txflags.invalidPayload = true ∧
        (t.txflags.empty = true ↔ p.length = 0) ∧ (t.txflags.tooLong = true ↔ 255 < p.length) ∧
        (t.txflags.nonAscii = true ↔ ∃ b ∈ p.take 255, b.getLsbD 7 = true) ∧
        ∃ v, issue (words (txDrain 1)) t = .next v ∧ v.cmdflags.sequence = true ∧
          v.resps = t.resps ++ [⟨false, 0x00⟩])

/-- R99, R91, R23: in every state that meets the invariant, the bytes TX_POP returns in READY are those of
encode(TXOPC, payload), so no byte of a rejected payload is ever returned. -/
def Obligations.ReadyFrameIsEncodedPayload : Prop :=
  ∀ s : State, s.Inv → s.txst = .ready →
    ∃ f, encodeFrame s.txopc (s.txbuf.slice s.txcnt.toNat) = .ok f ∧ f.length = 5 + s.txcnt.toNat ∧
      s.txrd.toNat < f.length ∧
      ∃ t, exec (.txPop 0) s = .next t ∧ t.resps = s.resps ++ [⟨true, f.getD s.txrd.toNat 0⟩]

/-! ## Deserializer -/

/-- R113. -/
def Obligations.RxStartBeginsReception : Prop :=
  ∀ (d : Byte) (s : State),
    decode (0x30#8 ++ d) = .command (.rxStart d) ∧
    exec (.rxStart d) s = .next { s with
      rxst := .atPrefix, rxlen := 0, rxopc := 0, rxcnt := 0, rxchk := 0, rxcrc := 0xFF, rxrd := 0
      rxflags := ⟨false, false, false, false, false, false⟩, resps := s.resps ++ [⟨false, 0x00⟩] }

/-- R114: the eight states. In PAYLOAD the entry RXBUF[RXCNT] must exist; the other case is RxPushStopsOnlyAtMissingEntry. -/
def Obligations.RxPushTakesByteByState : Prop :=
  ∀ (d : Byte) (s : State),
    decode (0x31#8 ++ d) = .command (.rxPush d) ∧
    (s.rxst = .idle → exec (.rxPush d) s = .next { s with
      cmdflags := ⟨s.cmdflags.illegal, true⟩, resps := s.resps ++ [⟨false, 0x00⟩] }) ∧
    (s.rxst = .atPrefix → exec (.rxPush d) s = .next { s with
      rxflags := { s.rxflags with badPrefix := s.rxflags.badPrefix || decide (d ≠ prefixByte) }
      rxst := .atLen, resps := s.resps ++ [⟨false, 0x00⟩] }) ∧
    (s.rxst = .atLen → exec (.rxPush d) s = .next { s with
      rxlen := d, rxst := .atOpc, resps := s.resps ++ [⟨false, 0x00⟩] }) ∧
    (s.rxst = .atOpc → exec (.rxPush d) s = .next { s with
      rxopc := d, rxcrc := crcStep 0xFF d
      rxflags := { s.rxflags with badDataSize := s.rxflags.badDataSize || decide (s.rxlen = 0) }
      rxst := if s.rxlen = 0 then .atChk else .atPayload, resps := s.resps ++ [⟨false, 0x00⟩] }) ∧
    (s.rxst = .atPayload → s.rxcnt ≠ 255 → exec (.rxPush d) s = .next { s with
      rxbuf := s.rxbuf.write s.rxcnt.toNat d, rxcnt := s.rxcnt + 1, rxcrc := crcStep s.rxcrc d
      rxflags := { s.rxflags with badEncoding := s.rxflags.badEncoding || d.getLsbD 7 }
      rxst := if s.rxcnt.toNat + 1 = s.rxlen.toNat then .atChk else .atPayload
      resps := s.resps ++ [⟨false, 0x00⟩] }) ∧
    (s.rxst = .atChk → exec (.rxPush d) s = .next { s with
      rxchk := d, rxst := .atSuf, resps := s.resps ++ [⟨false, 0x00⟩] }) ∧
    (s.rxst = .atSuf → exec (.rxPush d) s = .next { s with
      rxflags := { s.rxflags with
        badPostfix := s.rxflags.badPostfix || decide (d ≠ suffixByte)
        badCrc := s.rxflags.badCrc || decide (s.rxchk ≠ s.rxcrc) }
      rxst := .done, resps := s.resps ++ [⟨false, 0x00⟩] }) ∧
    (s.rxst = .done → exec (.rxPush d) s = .next { s with
      rxflags := { s.rxflags with extra := true }, resps := s.resps ++ [⟨false, 0x00⟩] })

/-- R115. -/
def Obligations.RxEndMarksShortFrame : Prop :=
  ∀ (d : Byte) (s : State),
    decode (0x32#8 ++ d) = .command (.rxEnd d) ∧
    (s.rxst = .idle → exec (.rxEnd d) s = .next { s with
      cmdflags := ⟨s.cmdflags.illegal, true⟩, resps := s.resps ++ [⟨false, 0x00⟩] }) ∧
    (s.rxst = .done → exec (.rxEnd d) s = .next { s with resps := s.resps ++ [⟨false, 0x00⟩] }) ∧
    (s.rxst ≠ .idle → s.rxst ≠ .done → exec (.rxEnd d) s = .next { s with
      rxflags := { s.rxflags with badDataSize := true }, rxst := .done, resps := s.resps ++ [⟨false, 0x00⟩] })

/-- R116, R34: the eight bits of RXSTAT, and nothing changes. -/
def Obligations.RxStatReturnsDeserializerStatus : Prop :=
  ∀ (d : Byte) (s : State),
    decode (0x33#8 ++ d) = .command (.rxStat d) ∧
    ∃ b : Byte, exec (.rxStat d) s = .next { s with resps := s.resps ++ [⟨true, b⟩] } ∧
      b.getLsbD 0 = s.rxflags.badPrefix ∧ b.getLsbD 1 = s.rxflags.badPostfix ∧ b.getLsbD 2 = s.rxflags.badCrc ∧
      b.getLsbD 3 = s.rxflags.badEncoding ∧ b.getLsbD 4 = s.rxflags.badDataSize ∧
      b.getLsbD 5 = decide (s.rxst = .done) ∧
      (b.getLsbD 6 = true ↔ s.rxst = .done ∧ b.getLsbD 0 = false ∧ b.getLsbD 1 = false ∧ b.getLsbD 2 = false ∧
        b.getLsbD 3 = false ∧ b.getLsbD 4 = false) ∧
      b.getLsbD 7 = s.rxflags.extra

/-- R117, R154: the code is 0 when no error flag is set; with ERR_SELECT = PRIORITY it is the highest-priority set
flag's; with ERR_SELECT = ANY it is some set flag's. Nothing changes, and EXTRA never affects the code. -/
def Obligations.RxErrReturnsPrimaryCode : Prop :=
  ∀ (d : Byte) (s : State),
    decode (0x34#8 ++ d) = .command (.rxErr d) ∧
    ∃ c : Byte, exec (.rxErr d) s = .next { s with resps := s.resps ++ [⟨true, c⟩] } ∧
      (∀ x, exec (.rxErr d) { s with rxflags := { s.rxflags with extra := x } } =
        .next { s with rxflags := { s.rxflags with extra := x }, resps := s.resps ++ [⟨true, c⟩] }) ∧
      let f := s.rxflags
      match errSelect with
      | .priority => c =
        if f.badPrefix then 1 else if f.badDataSize then 5 else if f.badPostfix then 2 else if f.badCrc then 3
        else if f.badEncoding then 4 else 0
      | .any =>
        (c = 0 ∧ f.badPrefix = false ∧ f.badPostfix = false ∧ f.badCrc = false ∧ f.badEncoding = false ∧
          f.badDataSize = false) ∨
        (c = 1 ∧ f.badPrefix = true) ∨ (c = 2 ∧ f.badPostfix = true) ∨ (c = 3 ∧ f.badCrc = true) ∨
        (c = 4 ∧ f.badEncoding = true) ∨ (c = 5 ∧ f.badDataSize = true)

/-- R119, R120: the length and the opcode of an accepted frame are returned and nothing changes; otherwise both refuse. -/
def Obligations.AcceptedLengthAndOpcodeReadOut : Prop :=
  ∀ (d : Byte) (s : State),
    let accepted := s.rxst = .done ∧ s.rxflags.badPrefix = false ∧ s.rxflags.badPostfix = false ∧
      s.rxflags.badCrc = false ∧ s.rxflags.badEncoding = false ∧ s.rxflags.badDataSize = false
    decode (0x35#8 ++ d) = .command (.rxRdlen d) ∧ decode (0x36#8 ++ d) = .command (.rxRdopc d) ∧
    (accepted → exec (.rxRdlen d) s = .next { s with resps := s.resps ++ [⟨true, s.rxlen⟩] } ∧
      exec (.rxRdopc d) s = .next { s with resps := s.resps ++ [⟨true, s.rxopc⟩] }) ∧
    (¬ accepted → ∀ i ∈ [Instr.rxRdlen d, .rxRdopc d], exec i s = .next { s with
      cmdflags := ⟨s.cmdflags.illegal, true⟩, resps := s.resps ++ [⟨false, 0x00⟩] })

/-- R121. -/
def Obligations.RxPopReturnsNextPayloadByte : Prop :=
  ∀ (d : Byte) (s : State),
    let accepted := s.rxst = .done ∧ s.rxflags.badPrefix = false ∧ s.rxflags.badPostfix = false ∧
      s.rxflags.badCrc = false ∧ s.rxflags.badEncoding = false ∧ s.rxflags.badDataSize = false
    decode (0x37#8 ++ d) = .command (.rxPop d) ∧
    (accepted → s.rxrd.toNat < s.rxlen.toNat → exec (.rxPop d) s = .next { s with
      rxrd := s.rxrd + 1, resps := s.resps ++ [⟨true, s.rxbuf.read s.rxrd.toNat⟩] }) ∧
    (¬ (accepted ∧ s.rxrd.toNat < s.rxlen.toNat) → exec (.rxPop d) s = .next { s with
      cmdflags := ⟨s.cmdflags.illegal, true⟩, resps := s.resps ++ [⟨false, 0x00⟩] })

/-- R122: from any state (its RXBUF in canonical form, which StepKeepsInvariant says every run keeps), the run of RX_FRAME
agrees with decode, and the read-out returns the payload or nothing. -/
def Obligations.DeserializerRunMatchesDecode : Prop :=
  ∀ (s : State) (inp : List Byte), s.rxbuf.wf →
    let r := decodeFrame inp
    ∃ t, issue (words (rxFrame inp)) s = .next t ∧
      t.cmdflags = s.cmdflags ∧ t.resps = s.resps ++ List.replicate (inp.length + 2) ⟨false, 0x00⟩ ∧
      t.rxst = .done ∧ t.rxflags = r.flags ∧ t.rxlen = r.len ∧ t.rxopc = r.opc ∧
      t.rxbuf.slice r.payload.length = r.payload ∧
      (∃ t' b, issue (words [.rxStat 0]) t = .next t' ∧ t'.resps = t.resps ++ [⟨true, b⟩] ∧ b.getLsbD 6 = r.valid) ∧
      (r.valid = true → ∃ u, issue (words (rxDrain r.len.toNat)) t = .next u ∧
        u.resps = t.resps ++ r.payload.map (⟨true, ·⟩) ∧ r.payload.length = r.len.toNat ∧ u.cmdflags = s.cmdflags ∧
        ∃ v, issue (words (rxDrain 1)) u = .next v ∧ v.cmdflags.sequence = true ∧
          v.resps = u.resps ++ [⟨false, 0x00⟩]) ∧
      (r.valid = false → ∀ i ∈ [Instr.rxPop 0, .rxRdlen 0, .rxRdopc 0],
        exec i t = .next { t with cmdflags := ⟨t.cmdflags.illegal, true⟩, resps := t.resps ++ [⟨false, 0x00⟩] })

/-- R13, R155: decode accepts exactly the input whose first 5 + L bytes are a valid frame; what follows does not matter. -/
def Obligations.AcceptedInputBeginsWithValidFrame : Prop :=
  ∀ inp : List Byte,
    (decodeFrame inp).valid = true ↔ validFrame (inp.take (5 + (inp.getD 1 0).toNat)) = true

/-- R155, R13, R31, R32: in every state that meets the invariant and has VALID = 1, the frame is non-empty and ASCII and its
checksum is the CRC over opcode and payload. -/
def Obligations.AcceptedFrameHoldsAllChecks : Prop :=
  ∀ s : State, s.Inv → s.rxst = .done → s.rxflags.badPrefix = false → s.rxflags.badPostfix = false →
    s.rxflags.badCrc = false → s.rxflags.badEncoding = false → s.rxflags.badDataSize = false →
      1 ≤ s.rxlen.toNat ∧ s.rxcnt = s.rxlen ∧ (∀ b ∈ s.rxbuf.slice s.rxlen.toNat, b.getLsbD 7 = false) ∧
      s.rxchk = crc8 (s.rxopc :: s.rxbuf.slice s.rxlen.toNat)

/-! ## Both directions -/

/-- R123: decode undoes encode, and the bytes TX_POP yields, pushed back through RX_PUSH, are accepted and reproduce the
payload, from any state whose buffers are in canonical form. -/
def Obligations.RoundTripReproducesPayload : Prop :=
  ∀ (o : Byte) (p fr : List Byte), encodeFrame o p = .ok fr →
    decodeFrame fr =
      { flags := ⟨false, false, false, false, false, false⟩, valid := true, len := BitVec.ofNat 8 p.length, opc := o,
        payload := p } ∧
    ∀ s : State, s.txbuf.wf → s.rxbuf.wf → ∃ t, issue (words (txFrame o p ++ txDrain fr.length)) s = .next t ∧
      let popped := (t.resps.drop (s.resps.length + p.length + 2)).map Resp.data
      ∃ u, issue (words (rxFrame popped ++ rxDrain p.length)) t = .next u ∧ u.cmdflags = s.cmdflags ∧
        u.resps = t.resps ++ List.replicate (fr.length + 2) ⟨false, 0x00⟩ ++ p.map (⟨true, ·⟩)

/-- R124(a), whose `primary` is R154's with ERR_SELECT = PRIORITY: one bit flipped in the opcode, the payload or the
checksum byte. -/
def Obligations.BodyBitFlipYieldsBadCrc : Prop :=
  ∀ (o : Byte) (p fr : List Byte) (k j : Nat),
    encodeFrame o p = .ok fr → 2 ≤ k → k ≤ 3 + p.length → j < 8 →
      let f := (decodeFrame (flipBit fr k j)).flags
      f.badCrc = true ∧ f.badEncoding = decide (j = 7 ∧ 3 ≤ k ∧ k < 3 + p.length) ∧
      f.badPrefix = false ∧ f.badPostfix = false ∧ f.badDataSize = false ∧ f.extra = false ∧
      primaryByPriority f = 3

/-- R124(b), for any other length byte, not only one with a bit flipped. Where the frame is cut short the suffix position
holds an ASCII payload byte, so a SUFFIX_BYTE with bit 7 set cannot match it. -/
def Obligations.LengthCorruptionFlags : Prop :=
  ∀ (o : Byte) (p fr : List Byte) (l : Byte),
    encodeFrame o p = .ok fr → l.toNat ≠ p.length →
      let f := (decodeFrame (fr.set 1 l)).flags
      (p.length < l.toNat → f.badDataSize = true ∧ primaryByPriority f = 5) ∧
      (l = 0 → f.badDataSize = true) ∧
      (l ≠ 0 → l.toNat < p.length →
        f.extra = true ∧
        (l.toNat + 1 < p.length →
          f.badPostfix = decide (p.getD (l.toNat + 1) 0 ≠ suffixByte) ∧
          (f.badPostfix = true ∨ suffixByte.getLsbD 7 = false)) ∧
        (l.toNat + 1 = p.length → f.badPostfix = decide (crc8 (o :: p) ≠ suffixByte)) ∧
        f.badCrc = decide (p.getD l.toNat 0 ≠ crc8 (o :: p.take l.toNat)))

/-- R124(c), R124(d): the first byte changed, and the last byte changed. -/
def Obligations.SentinelCorruptionIsReportedAlone : Prop :=
  ∀ (o : Byte) (p fr : List Byte) (b : Byte), encodeFrame o p = .ok fr →
    (b ≠ prefixByte →
      let f := (decodeFrame (fr.set 0 b)).flags
      f = ⟨true, false, false, false, false, false⟩ ∧ primaryByPriority f = 1) ∧
    (b ≠ suffixByte →
      let f := (decodeFrame (fr.set (fr.length - 1) b)).flags
      f = ⟨false, true, false, false, false, false⟩ ∧ primaryByPriority f = 2)

/-! ## Command errors and sticky flags -/

/-- R156: a command raises SEQUENCE exactly in the states its rule does not permit, and then changes nothing else. -/
def Obligations.SequenceRaisedExactlyWhenNotPermitted : Prop :=
  ∀ (i : Instr) (s : State),
    (permitted i s = false → exec i s = .next { s with
      cmdflags := ⟨s.cmdflags.illegal, true⟩, resps := s.resps ++ [⟨false, 0x00⟩] }) ∧
    (permitted i s = true → ∀ t, exec i s = .next t →
      t.cmdflags = s.cmdflags ∨ t.cmdflags = ⟨false, false⟩ ∧ ((∃ d, i = .cmdClr d) ∨ ∃ d, i = .sreset d))

/-- R159: a status flag is cleared only by the commands named for it, so reading never clears one. -/
def Obligations.StickyFlagsClearedOnlyByNamedCommands : Prop :=
  ∀ (i : Instr) (s t : State), exec i s = .next t →
    ((∃ d, i = .txStart d) ∨ (∃ d, i = .sreset d) ∨
      (s.txflags.invalidPayload = true → t.txflags.invalidPayload = true) ∧
      (s.txflags.empty = true → t.txflags.empty = true) ∧ (s.txflags.tooLong = true → t.txflags.tooLong = true) ∧
      (s.txflags.nonAscii = true → t.txflags.nonAscii = true)) ∧
    ((∃ d, i = .rxStart d) ∨ (∃ d, i = .sreset d) ∨
      (s.rxflags.badPrefix = true → t.rxflags.badPrefix = true) ∧
      (s.rxflags.badPostfix = true → t.rxflags.badPostfix = true) ∧
      (s.rxflags.badCrc = true → t.rxflags.badCrc = true) ∧
      (s.rxflags.badEncoding = true → t.rxflags.badEncoding = true) ∧
      (s.rxflags.badDataSize = true → t.rxflags.badDataSize = true) ∧
      (s.rxflags.extra = true → t.rxflags.extra = true)) ∧
    ((∃ d, i = .cmdClr d) ∨ (∃ d, i = .sreset d) ∨
      (s.cmdflags.illegal = true → t.cmdflags.illegal = true) ∧
      (s.cmdflags.sequence = true → t.cmdflags.sequence = true))

/-- R183: in a run without CMD_CLR and SRESET, from cleared command flags, CMDSTAT is not 0 at the end exactly when some
word had an undefined code or some command was not permitted in the state it met. -/
def Obligations.FaultedRunRaisedSomeCommandError : Prop :=
  ∀ (ws : List Word) (s t : State), s.cmdflags = ⟨false, false⟩ →
    (∀ w ∈ ws, ∀ d, decode w ≠ .command (.cmdClr d) ∧ decode w ≠ .command (.sreset d)) →
    issue ws s = .next t →
      (t.faulted = true ↔ ∃ (pre post : List Word) (w : Word) (u : State),
        ws = pre ++ w :: post ∧ issue pre s = .next u ∧
          ((∃ c, decode w = .illegal c) ∨ ∃ i, decode w = .command i ∧ permitted i u = false))

/-! ## Frames and independence of the units -/

/-- R47: a command of one unit leaves the other units as they are, and so do the control commands but SRESET. -/
def Obligations.UnitCommandsLeaveOtherUnitsAlone : Prop :=
  ∀ (i : Instr) (s t : State), exec i s = .next t →
    (isCrcCommand i = true → sameTx s t ∧ sameRx s t ∧ t.cmdflags = s.cmdflags) ∧
    (isTxCommand i = true → s.crc = t.crc ∧ sameRx s t) ∧
    (isRxCommand i = true → s.crc = t.crc ∧ sameTx s t) ∧
    ((∃ d, i = .nop d ∨ i = .cmdStat d ∨ i = .cmdClr d) → s.crc = t.crc ∧ sameTx s t ∧ sameRx s t)

/-- R181, R47: what a unit does next depends on its own registers only: two states that agree on one unit agree on it
after the same command, whatever the other units hold. -/
def Obligations.UnitsEvolveIndependently : Prop :=
  ∀ (i : Instr) (s s' t t' : State), exec i s = .next t → exec i s' = .next t' →
    (s.crc = s'.crc → t.crc = t'.crc) ∧
    (sameTx s s' → sameTx t t') ∧
    (sameRx s s' → sameRx t t')

/-- R54: the commands that return data, other than TX_POP and RX_POP, return a byte and change no state but the response
log, except that RX_RDLEN and RX_RDOPC without an accepted frame set SEQUENCE and return (0, 0x00); issued again, each
answers the same. That RX_ERR does so with ERR_SELECT = ANY is the model's choice of what the draw depends on, log 6. -/
def Obligations.StatusReadsHaveNoSideEffect : Prop :=
  ∀ (d d' : Byte) (i i' : Instr) (s t : State),
    (i, i') ∈ [(Instr.crcRead d, Instr.crcRead d'), (.txStat d, .txStat d'), (.rxStat d, .rxStat d'),
      (.rxErr d, .rxErr d'), (.rxRdlen d, .rxRdlen d'), (.rxRdopc d, .rxRdopc d'), (.cmdStat d, .cmdStat d')] →
    exec i s = .next t →
      let refused := (i = .rxRdlen d ∨ i = .rxRdopc d) ∧ s.rxValid = false
      (refused → t = { s with cmdflags := ⟨s.cmdflags.illegal, true⟩, resps := s.resps ++ [⟨false, 0x00⟩] }) ∧
      (¬ refused → ∃ b : Byte, t = { s with resps := s.resps ++ [⟨true, b⟩] }) ∧
      ∃ r u, t.resps = s.resps ++ [r] ∧ exec i' t = .next u ∧ u.resps = t.resps ++ [r]

/-- R62, R66: a command that ignores D has the same effect for every D. -/
def Obligations.IgnoredOperandHasNoEffect : Prop :=
  ∀ (i j : Instr) (s : State), i.code = j.code →
    i.code ≠ 0x11 → i.code ≠ 0x20 → i.code ≠ 0x21 → i.code ≠ 0x31 → exec i s = exec j s

/-- R46, R93: TX_PUSH stores to TXBUF[TXCNT] only, and only when it accepts the byte; RXBUF is unchanged. -/
def Obligations.TxPushStoresOneEntry : Prop :=
  ∀ (d : Byte) (s t : State), s.txbuf.wf → exec (.txPush d) s = .next t →
    (∀ a, t.rxbuf.read a = s.rxbuf.read a) ∧
    (∀ a, a ≠ s.txcnt.toNat → t.txbuf.read a = s.txbuf.read a) ∧
    (s.txst = .opened → s.txcnt ≠ 255 → s.txcnt.toNat < 255 ∧ t.txbuf.read s.txcnt.toNat = d) ∧
    (s.txst ≠ .opened ∨ s.txcnt = 255 → t.txbuf.read s.txcnt.toNat = s.txbuf.read s.txcnt.toNat)

/-- R46, R114: RX_PUSH stores to RXBUF[RXCNT] only, and only in PAYLOAD; TXBUF is unchanged. That a next state from PAYLOAD
implies RXCNT < 255 in states that no run reaches too is the model's choice, log 11: at RXCNT = 255 it stops. -/
def Obligations.RxPushStoresOneEntry : Prop :=
  ∀ (d : Byte) (s t : State), s.rxbuf.wf → exec (.rxPush d) s = .next t →
    (∀ a, t.txbuf.read a = s.txbuf.read a) ∧
    (∀ a, a ≠ s.rxcnt.toNat → t.rxbuf.read a = s.rxbuf.read a) ∧
    (s.rxst = .atPayload → s.rxcnt.toNat < 255 ∧ t.rxbuf.read s.rxcnt.toNat = d) ∧
    (s.rxst ≠ .atPayload → t.rxbuf.read s.rxcnt.toNat = s.rxbuf.read s.rxcnt.toNat)

/-- R46: no command but TX_PUSH, RX_PUSH and SRESET changes any buffer entry. -/
def Obligations.OtherCommandsLeaveBuffersAlone : Prop :=
  ∀ (i : Instr) (s t : State), exec i s = .next t →
    (∀ d, i ≠ .txPush d) → (∀ d, i ≠ .rxPush d) → (∀ d, i ≠ .sreset d) →
      ∀ a, t.txbuf.read a = s.txbuf.read a ∧ t.rxbuf.read a = s.rxbuf.read a

/-- R161: what one command can set: one RX_PUSH at most BAD_POSTFIX and BAD_CRC together; one TX_END at most
INVALID_PAYLOAD and EMPTY; ILLEGAL by no command; no frame flag together with SEQUENCE. -/
def Obligations.SimultaneousFlagsOfOneCommand : Prop :=
  ∀ (i : Instr) (s t : State), exec i s = .next t →
    (t.cmdflags.illegal = true → s.cmdflags.illegal = true) ∧
    (t.cmdflags.sequence = true → s.cmdflags.sequence = false → t.rxflags = s.rxflags ∧ t.txflags = s.txflags) ∧
    ((∃ d, i = .rxPush d) →
      (t.rxflags = { s.rxflags with badPostfix := t.rxflags.badPostfix, badCrc := t.rxflags.badCrc } ∧ s.rxst = .atSuf) ∨
      t.rxflags = { s.rxflags with badPrefix := t.rxflags.badPrefix } ∨
      t.rxflags = { s.rxflags with badEncoding := t.rxflags.badEncoding } ∨
      t.rxflags = { s.rxflags with badDataSize := t.rxflags.badDataSize } ∨
      t.rxflags = { s.rxflags with extra := t.rxflags.extra }) ∧
    ((∃ d, i = .txEnd d) →
      t.txflags = { s.txflags with invalidPayload := t.txflags.invalidPayload, empty := t.txflags.empty })

/-! ## Invariants -/

/-- The model's reset state meets the invariant (R38, R40). -/
def Obligations.ResetMeetsInvariant : Prop := State.reset.Inv

/-- R40, R23, R32, R46: every step keeps the invariant, from every state that meets it. -/
def Obligations.StepKeepsInvariant : Prop := ∀ s t : State, s.Inv → step s = .next t → t.Inv

/-- R46, R158: in a state that meets the invariant every command word runs to a next state; nothing stops the block. -/
def Obligations.NoStopUnderInvariant : Prop := ∀ s : State, s.Inv → ∃ t, step s = .next t

/-- The model's choice, log 11, on R46: the only command that can stop is RX_PUSH in PAYLOAD with RXCNT = 255, whose entry
does not exist. -/
def Obligations.RxPushStopsOnlyAtMissingEntry : Prop :=
  ∀ (i : Instr) (s : State),
    (exec i s = .fault .bufferIndex ↔ (∃ d, i = .rxPush d) ∧ s.rxst = .atPayload ∧ s.rxcnt = 255) ∧
    ∀ r, exec i s ≠ .refused r

/-- R40, R46: whatever words the host issues after reset, the run completes and the items (a) to (g) hold at its end. -/
def Obligations.RunsFromResetKeepBlockInvariants : Prop :=
  ∀ ws : List Word, ∃ s, issue ws State.reset = .next s ∧
    s.txcnt.toNat ≤ 255 ∧
    (s.txst = .ready → s.txrd.toNat < 5 + s.txcnt.toNat ∧ 1 ≤ s.txcnt.toNat ∧
      s.txflags = ⟨false, false, false, false⟩) ∧
    (s.txst = .idle → s.txrd.toNat = 0 ∨ s.txrd.toNat = 5 + s.txcnt.toNat) ∧
    s.rxcnt.toNat ≤ s.rxlen.toNat ∧
    (s.rxst = .atChk ∨ s.rxst = .atSuf → s.rxcnt = s.rxlen) ∧
    (s.rxst = .idle → s.rxlen = 0 ∧ s.rxopc = 0 ∧ s.rxcnt = 0 ∧ s.rxchk = 0 ∧ s.rxcrc = 0xFF ∧ s.rxrd = 0 ∧
      s.rxflags = ⟨false, false, false, false, false, false⟩) ∧
    s.rxrd.toNat ≤ s.rxlen.toNat

/-- R39: two states that meet the invariant and differ only in what the buffers hold past the current frame answer the
same and stay so: the unspecified contents are unobservable. That RX_ERR answers the same with ERR_SELECT = ANY is the
model's choice, log 6: the draw reads no buffer. -/
def Obligations.StaleBufferBytesAreUnobservable : Prop :=
  ∀ s t s' : State, s.Inv → t.Inv → sameButStale s t → step s = .next s' →
    ∃ t', step t = .next t' ∧ sameButStale s' t' ∧ s'.resps = t'.resps
end

