-- ==== Sys2Proof/Laws/Crc.lean ====
section
/-! SUPPORT. The CRC function: a step depends on `c XOR b` only, a list is folded byte by byte, and the check of the
parameters against the general form of a catalogue CRC. -/

namespace Sys2Proof.Machine

/-- The table form of R81: `crc_step(c, b) = T[c XOR b]` with `T[v] = crc_step(0x00, v)`. -/
theorem crcStep_eq_table (c b : Byte) : crcStep c b = crcStep 0x00 (c ^^^ b) := by simp [crcStep]

@[simp] theorem crcFrom_nil (c : Byte) : crcFrom c [] = c := rfl

@[simp] theorem crcFrom_cons (c b : Byte) (bs : List Byte) : crcFrom c (b :: bs) = crcFrom (crcStep c b) bs := rfl

theorem crcFrom_append (c : Byte) (as bs : List Byte) : crcFrom c (as ++ bs) = crcFrom (crcFrom c as) bs :=
  List.foldl_append ..

theorem crc8_eq_crcFrom (bs : List Byte) : crc8 bs = crcFrom Config.crcInit bs := by simp [crc8]

@[simp] theorem crc8_nil : crc8 [] = Config.crcInit := rfl

/-- Folding in one more byte (R23, R32). -/
theorem crc8_append_single (bs : List Byte) (b : Byte) : crc8 (bs ++ [b]) = crcStep (crc8 bs) b := by
  simp [crc8_eq_crcFrom, crcFrom_append]

theorem crc8_single (b : Byte) : crc8 [b] = crcStep Config.crcInit b := by simp [crc8_eq_crcFrom]

/-- One shift is linear over exclusive-or: `r << 1` is, and the polynomial is folded in by one bit of r. -/
theorem crcShift_xor (a b : Byte) : crcShift (a ^^^ b) = crcShift a ^^^ crcShift b := by
  unfold crcShift
  rw [BitVec.getLsbD_xor]
  generalize Config.crcPoly = p
  cases a.getLsbD 7 <;> cases b.getLsbD 7 <;>
    simp only [Bool.xor_true, Bool.xor_false, Bool.not_true, Bool.not_false, if_true, if_false, Bool.false_eq_true,
      BitVec.shiftLeft_xor_distrib]
  · ac_rfl
  · ac_rfl
  · generalize a <<< 1 = x
    generalize b <<< 1 = y
    rw [show x ^^^ p ^^^ (y ^^^ p) = x ^^^ y ^^^ (p ^^^ p) by ac_rfl, BitVec.xor_self, BitVec.xor_zero]

theorem crcShifts_xor (n : Nat) (a b : Byte) : crcShifts n (a ^^^ b) = crcShifts n a ^^^ crcShifts n b := by
  induction n generalizing a b with
  | zero => rfl
  | succ n ih => simp only [crcShifts, crcShift_xor, ih]

theorem crcStep_xor (a b c d : Byte) : crcStep (a ^^^ c) (b ^^^ d) = crcStep a b ^^^ crcStep c d := by
  rw [crcStep, crcStep, crcStep, ← crcShifts_xor]
  congr 1
  ac_rfl

/-- A shift loses nothing: G has a non-zero constant term (R86). -/
theorem crcShift_injective : Function.Injective crcShift := by
  intro a b h
  have h0 : crcShift (a ^^^ b) = 0 := by rw [crcShift_xor, h, BitVec.xor_self]; rfl
  have key : ∀ x : Byte, crcShift x = 0 → x = 0 := by decide
  exact BitVec.xor_eq_zero_iff.mp (key _ h0)

/-- A step over a zero byte is eight shifts. -/
theorem crcStep_zero (c : Byte) : crcStep c 0 = crcShifts Config.crcWidth c := by
  rw [crcStep, show c ^^^ 0 = c from BitVec.xor_zero]

/-- A byte with its bits in the opposite order, if asked. -/
def reflectIf (r : Bool) (b : Byte) : Byte := if r then b.reverse else b

/-- The general form of an 8-bit catalogue CRC, with all five parameters of R6. -/
def catalogueCrc (init xorOut : Byte) (refIn refOut : Bool) (bs : List Byte) : Byte :=
  reflectIf refOut (crcFrom init (bs.map (reflectIf refIn))) ^^^ xorOut

/-- With the parameters of R6 the general form is crc8 (R81, R82: nothing is reflected). -/
theorem crc8_eq_catalogueCrc (bs : List Byte) :
    crc8 bs = catalogueCrc Config.crcInit Config.crcXorOut Config.crcRefIn Config.crcRefOut bs := by
  have h : reflectIf Config.crcRefIn = id := by funext b; rfl
  rw [catalogueCrc, h, List.map_id]
  rfl

end Sys2Proof.Machine
end

