-- ==== Sys2Proof/Laws/Decode.lean ====
section
/-! SUPPORT. The fields of an encoded command, and when the decoder answers ILLEGAL. -/

namespace Sys2Proof

@[simp] theorem Word.cmd_append (c d : Byte) : Word.cmd (c ++ d) = c := by
  refine BitVec.eq_of_getLsbD_eq fun i hi => ?_
  rw [Word.cmd, BitVec.getLsbD_extractLsb']
  exact (congrArg _ (BitVec.getLsbD_append (x := c) (y := d) (i := 8 + i))).trans (by simp [hi])

@[simp] theorem Word.operand_append (c d : Byte) : Word.operand (c ++ d) = d := by
  refine BitVec.eq_of_getLsbD_eq fun i hi => ?_
  rw [Word.operand, BitVec.getLsbD_extractLsb']
  exact (congrArg _ (BitVec.getLsbD_append (x := c) (y := d) (i := 0 + i))).trans (by simp [hi])

/-- A word is its two fields. -/
theorem Word.append_fields (w : Word) : w.cmd ++ w.operand = w := by
  refine BitVec.eq_of_getLsbD_eq fun i hi => ?_
  refine (BitVec.getLsbD_append (x := w.cmd) (y := w.operand) (i := i)).trans ?_
  rw [Word.cmd, Word.operand, BitVec.getLsbD_extractLsb', BitVec.getLsbD_extractLsb']
  split
  · simp [*]
  · rw [show 8 + (i - 8) = i by omega]
    simp only [Bool.and_eq_right_iff_imp, decide_eq_true_eq]
    omega

@[simp] theorem encode_cmd (i : Instr) : Word.cmd (encode i) = i.code := Word.cmd_append _ _

@[simp] theorem encode_operand (i : Instr) : Word.operand (encode i) = i.operand := Word.operand_append _ _

/-- A rejected code is answered by its name. -/
theorem decodeFields_illegal {cmd d c : Byte} (h : decodeFields cmd d = .illegal c) : c = cmd := by
  unfold decodeFields at h
  split at h <;> simp_all

end Sys2Proof
end

