-- ==== Sys2Proof/Laws/Memory.lean ====
section
/-! SUPPORT. The laws of the buffers: a read after a write, every other entry unchanged, the canonical form kept, and equal
contents are equal data. -/

namespace Sys2Proof.Machine

@[simp] theorem Memory.read_nil (a : Nat) : Memory.read [] a = Memory.unlisted := rfl

theorem Memory.read_cons (c : Host.Cell) (m : Memory) (a : Nat) :
    Memory.read (c :: m) a = if c.1 = a then c.2 else Memory.read m a := rfl

theorem Memory.wf_nil : Memory.wf [] := by simp [Memory.wf]

theorem Memory.wf_cons {c : Host.Cell} {m : Memory} :
    Memory.wf (c :: m) ↔
      (∀ x ∈ m, c.1 < x.1) ∧ c.1 < Config.bufferSize ∧ c.2 ≠ Memory.unlisted ∧ Memory.wf m := by
  simp only [Memory.wf, List.map_cons, List.pairwise_cons, List.mem_map, List.forall_mem_cons,
    forall_exists_index, and_imp, forall_apply_eq_imp_iff₂]
  tauto

/-- An entry that no pair names reads as an unlisted one. -/
theorem Memory.read_of_not_listed {m : Memory} {a : Nat} (h : ∀ c ∈ m, c.1 ≠ a) : m.read a = Memory.unlisted := by
  induction m with
  | nil => rfl
  | cons c m ih =>
    rw [Memory.read_cons, if_neg (h c (by simp)), ih fun x hx => h x (by simp [hx])]

/-- The entry written reads as the byte written. -/
theorem Memory.read_write_same {m : Memory} (hm : m.wf) (a : Nat) (b : Byte) : (m.write a b).read a = b := by
  induction m with
  | nil => by_cases hb : b = Memory.unlisted <;> simp [Memory.write, hb, Memory.read_cons]
  | cons c m ih =>
    obtain ⟨hlt, -, -, hwf⟩ := Memory.wf_cons.mp hm
    unfold Memory.write
    split_ifs with h1 h2 h3 h4
    · rw [h2]
      refine Memory.read_of_not_listed fun x hx => ?_
      rcases List.mem_cons.mp hx with rfl | hx
      · exact Nat.ne_of_gt h1
      · exact Nat.ne_of_gt (Nat.lt_trans h1 (hlt x hx))
    · simp [Memory.read_cons]
    · subst h3
      rw [h4]
      exact Memory.read_of_not_listed fun x hx => Nat.ne_of_gt (hlt x hx)
    · simp [Memory.read_cons]
    · rw [Memory.read_cons, if_neg (fun h => h3 h.symm)]
      exact ih hwf

/-- Every entry but the one written reads as before. -/
theorem Memory.read_write_other (m : Memory) {a x : Nat} (b : Byte) (h : x ≠ a) : (m.write a b).read x = m.read x := by
  induction m with
  | nil => by_cases hb : b = Memory.unlisted <;> simp [Memory.write, hb, Memory.read_cons, h.symm]
  | cons c m ih =>
    unfold Memory.write
    split_ifs with h1 h2 h3 h4 <;> simp [Memory.read_cons, h.symm, ih]
    · intro hc
      exact absurd (hc.symm.trans h3.symm) h
    · intro hc
      exact absurd (hc.symm.trans h3.symm) h

/-- The indices a write leaves listed. -/
theorem Memory.mem_write {m : Memory} {a : Nat} {b : Byte} {c : Host.Cell} (h : c ∈ m.write a b) :
    c ∈ m ∨ c = (a, b) ∧ b ≠ Memory.unlisted := by
  induction m with
  | nil => by_cases hb : b = Memory.unlisted <;> simp_all [Memory.write]
  | cons x m ih =>
    unfold Memory.write at h
    split_ifs at h with h1 h2 h3 h4 <;> simp_all <;> tauto

/-- A write to an entry that exists keeps the canonical form. -/
theorem Memory.write_wf {m : Memory} (hm : m.wf) {a : Nat} (b : Byte) (ha : a < Config.bufferSize) :
    (m.write a b).wf := by
  induction m with
  | nil => by_cases hb : b = Memory.unlisted <;> simp_all [Memory.write, Memory.wf]
  | cons c m ih =>
    obtain ⟨hlt, hc, hv, hwf⟩ := Memory.wf_cons.mp hm
    unfold Memory.write
    split_ifs with h1 h2 h3 h4
    · exact hm
    · refine Memory.wf_cons.mpr ⟨fun x hx => ?_, ha, h2, hm⟩
      rcases List.mem_cons.mp hx with rfl | hx
      · exact h1
      · exact Nat.lt_trans h1 (hlt x hx)
    · exact hwf
    · exact Memory.wf_cons.mpr ⟨fun x hx => h3 ▸ hlt x hx, ha, h4, hwf⟩
    · refine Memory.wf_cons.mpr ⟨fun x hx => ?_, hc, hv, ih hwf⟩
      rcases Memory.mem_write hx with hx | ⟨rfl, -⟩
      · exact hlt x hx
      · exact Nat.lt_of_le_of_ne (Nat.le_of_not_lt h1) (fun h => h3 h.symm)

/-- Two buffers in canonical form with the same contents are the same data. -/
theorem Memory.ext {m n : Memory} (hm : m.wf) (hn : n.wf) (h : ∀ a, m.read a = n.read a) : m = n := by
  induction m generalizing n with
  | nil =>
    cases n with
    | nil => rfl
    | cons c n =>
      have := h c.1
      simp only [Memory.read_nil, Memory.read_cons, if_true] at this
      exact absurd this.symm (Memory.wf_cons.mp hn).2.2.1
  | cons c m ih =>
    obtain ⟨hlt, -, hv, hwf⟩ := Memory.wf_cons.mp hm
    cases n with
    | nil =>
      have := h c.1
      simp only [Memory.read_nil, Memory.read_cons, if_true] at this
      exact absurd this hv
    | cons d n =>
      obtain ⟨hlt', -, hv', hwf'⟩ := Memory.wf_cons.mp hn
      have hkey : c.1 = d.1 := by
        rcases Nat.lt_trichotomy c.1 d.1 with hcd | hcd | hcd
        · have h1 := h c.1
          rw [Memory.read_cons, if_pos rfl, Memory.read_of_not_listed (m := d :: n)] at h1
          · exact absurd h1 hv
          · intro x hx
            rcases List.mem_cons.mp hx with rfl | hx
            · exact Nat.ne_of_gt hcd
            · exact Nat.ne_of_gt (Nat.lt_trans hcd (hlt' x hx))
        · exact hcd
        · have h1 := h d.1
          rw [Memory.read_cons (c := d), if_pos rfl, Memory.read_of_not_listed (m := c :: m)] at h1
          · exact absurd h1.symm hv'
          · intro x hx
            rcases List.mem_cons.mp hx with rfl | hx
            · exact Nat.ne_of_gt hcd
            · exact Nat.ne_of_gt (Nat.lt_trans hcd (hlt x hx))
      have hval : c.2 = d.2 := by simpa [Memory.read_cons, hkey] using h c.1
      have htail : m = n := by
        refine ih hwf hwf' fun a => ?_
        by_cases ha : c.1 = a
        · rw [Memory.read_of_not_listed fun x hx => ha ▸ Nat.ne_of_gt (hlt x hx),
            Memory.read_of_not_listed fun x hx => ha ▸ hkey ▸ Nat.ne_of_gt (hlt' x hx)]
        · simpa [Memory.read_cons, ha, hkey ▸ ha] using h a
      rw [htail, Prod.ext hkey hval]

@[simp] theorem Memory.slice_length (m : Memory) (n : Nat) : (m.slice n).length = n := by simp [Memory.slice]

@[simp] theorem Memory.slice_zero (m : Memory) : m.slice 0 = [] := rfl

theorem Memory.slice_succ (m : Memory) (n : Nat) : m.slice (n + 1) = m.slice n ++ [m.read n] := by
  simp [Memory.slice, List.range_succ]

theorem Memory.slice_getElem (m : Memory) {n i : Nat} (h : i < (m.slice n).length) : (m.slice n)[i] = m.read i := by
  simp [Memory.slice]

theorem Memory.slice_eq_iff {m m' : Memory} {n : Nat} :
    m.slice n = m'.slice n ↔ ∀ i < n, m.read i = m'.read i := by
  simp [Memory.slice]

/-- Writing the entry after a slice appends to it. -/
theorem Memory.slice_write {m : Memory} (hm : m.wf) (n : Nat) (b : Byte) :
    (m.write n b).slice (n + 1) = m.slice n ++ [b] := by
  rw [Memory.slice_succ, Memory.read_write_same hm,
    Memory.slice_eq_iff.mpr fun i hi => Memory.read_write_other m b (Nat.ne_of_lt hi)]

end Sys2Proof.Machine
end

