-- ==== Sys2Proof/Laws/State.lean ====
section
/-! SUPPORT. One lemma per field per named update of State, so that no later proof unfolds a record update. -/

namespace Sys2Proof.Machine

@[simp] theorem State.respond_crc (s : State) (r : Resp) : (s.respond r).crc = s.crc := rfl
@[simp] theorem State.respond_txst (s : State) (r : Resp) : (s.respond r).txst = s.txst := rfl
@[simp] theorem State.respond_txopc (s : State) (r : Resp) : (s.respond r).txopc = s.txopc := rfl
@[simp] theorem State.respond_txcnt (s : State) (r : Resp) : (s.respond r).txcnt = s.txcnt := rfl
@[simp] theorem State.respond_txbuf (s : State) (r : Resp) : (s.respond r).txbuf = s.txbuf := rfl
@[simp] theorem State.respond_txcrc (s : State) (r : Resp) : (s.respond r).txcrc = s.txcrc := rfl
@[simp] theorem State.respond_txrd (s : State) (r : Resp) : (s.respond r).txrd = s.txrd := rfl
@[simp] theorem State.respond_txflags (s : State) (r : Resp) : (s.respond r).txflags = s.txflags := rfl
@[simp] theorem State.respond_rxst (s : State) (r : Resp) : (s.respond r).rxst = s.rxst := rfl
@[simp] theorem State.respond_rxlen (s : State) (r : Resp) : (s.respond r).rxlen = s.rxlen := rfl
@[simp] theorem State.respond_rxopc (s : State) (r : Resp) : (s.respond r).rxopc = s.rxopc := rfl
@[simp] theorem State.respond_rxcnt (s : State) (r : Resp) : (s.respond r).rxcnt = s.rxcnt := rfl
@[simp] theorem State.respond_rxbuf (s : State) (r : Resp) : (s.respond r).rxbuf = s.rxbuf := rfl
@[simp] theorem State.respond_rxchk (s : State) (r : Resp) : (s.respond r).rxchk = s.rxchk := rfl
@[simp] theorem State.respond_rxcrc (s : State) (r : Resp) : (s.respond r).rxcrc = s.rxcrc := rfl
@[simp] theorem State.respond_rxrd (s : State) (r : Resp) : (s.respond r).rxrd = s.rxrd := rfl
@[simp] theorem State.respond_rxflags (s : State) (r : Resp) : (s.respond r).rxflags = s.rxflags := rfl
@[simp] theorem State.respond_cmdflags (s : State) (r : Resp) : (s.respond r).cmdflags = s.cmdflags := rfl
@[simp] theorem State.respond_input (s : State) (r : Resp) : (s.respond r).input = s.input := rfl
@[simp] theorem State.respond_resps (s : State) (r : Resp) : (s.respond r).resps = s.resps ++ [r] := rfl

@[simp] theorem State.softReset_crc (s : State) : s.softReset.crc = State.reset.crc := rfl
@[simp] theorem State.softReset_txst (s : State) : s.softReset.txst = State.reset.txst := rfl
@[simp] theorem State.softReset_txopc (s : State) : s.softReset.txopc = State.reset.txopc := rfl
@[simp] theorem State.softReset_txcnt (s : State) : s.softReset.txcnt = State.reset.txcnt := rfl
@[simp] theorem State.softReset_txbuf (s : State) : s.softReset.txbuf = State.reset.txbuf := rfl
@[simp] theorem State.softReset_txcrc (s : State) : s.softReset.txcrc = State.reset.txcrc := rfl
@[simp] theorem State.softReset_txrd (s : State) : s.softReset.txrd = State.reset.txrd := rfl
@[simp] theorem State.softReset_txflags (s : State) : s.softReset.txflags = State.reset.txflags := rfl
@[simp] theorem State.softReset_rxst (s : State) : s.softReset.rxst = State.reset.rxst := rfl
@[simp] theorem State.softReset_rxlen (s : State) : s.softReset.rxlen = State.reset.rxlen := rfl
@[simp] theorem State.softReset_rxopc (s : State) : s.softReset.rxopc = State.reset.rxopc := rfl
@[simp] theorem State.softReset_rxcnt (s : State) : s.softReset.rxcnt = State.reset.rxcnt := rfl
@[simp] theorem State.softReset_rxbuf (s : State) : s.softReset.rxbuf = State.reset.rxbuf := rfl
@[simp] theorem State.softReset_rxchk (s : State) : s.softReset.rxchk = State.reset.rxchk := rfl
@[simp] theorem State.softReset_rxcrc (s : State) : s.softReset.rxcrc = State.reset.rxcrc := rfl
@[simp] theorem State.softReset_rxrd (s : State) : s.softReset.rxrd = State.reset.rxrd := rfl
@[simp] theorem State.softReset_rxflags (s : State) : s.softReset.rxflags = State.reset.rxflags := rfl
@[simp] theorem State.softReset_cmdflags (s : State) : s.softReset.cmdflags = State.reset.cmdflags := rfl
@[simp] theorem State.softReset_input (s : State) : s.softReset.input = s.input := rfl
@[simp] theorem State.softReset_resps (s : State) : s.softReset.resps = s.resps := rfl

@[simp] theorem State.withFetchWord_crc (s : State) (nbits w : Nat) : (s.withFetchWord nbits w).crc = s.crc := rfl
@[simp] theorem State.withFetchWord_txst (s : State) (nbits w : Nat) : (s.withFetchWord nbits w).txst = s.txst := rfl
@[simp] theorem State.withFetchWord_txopc (s : State) (nbits w : Nat) : (s.withFetchWord nbits w).txopc = s.txopc := rfl
@[simp] theorem State.withFetchWord_txcnt (s : State) (nbits w : Nat) : (s.withFetchWord nbits w).txcnt = s.txcnt := rfl
@[simp] theorem State.withFetchWord_txbuf (s : State) (nbits w : Nat) : (s.withFetchWord nbits w).txbuf = s.txbuf := rfl
@[simp] theorem State.withFetchWord_txcrc (s : State) (nbits w : Nat) : (s.withFetchWord nbits w).txcrc = s.txcrc := rfl
@[simp] theorem State.withFetchWord_txrd (s : State) (nbits w : Nat) : (s.withFetchWord nbits w).txrd = s.txrd := rfl
@[simp] theorem State.withFetchWord_txflags (s : State) (nbits w : Nat) : (s.withFetchWord nbits w).txflags = s.txflags := rfl
@[simp] theorem State.withFetchWord_rxst (s : State) (nbits w : Nat) : (s.withFetchWord nbits w).rxst = s.rxst := rfl
@[simp] theorem State.withFetchWord_rxlen (s : State) (nbits w : Nat) : (s.withFetchWord nbits w).rxlen = s.rxlen := rfl
@[simp] theorem State.withFetchWord_rxopc (s : State) (nbits w : Nat) : (s.withFetchWord nbits w).rxopc = s.rxopc := rfl
@[simp] theorem State.withFetchWord_rxcnt (s : State) (nbits w : Nat) : (s.withFetchWord nbits w).rxcnt = s.rxcnt := rfl
@[simp] theorem State.withFetchWord_rxbuf (s : State) (nbits w : Nat) : (s.withFetchWord nbits w).rxbuf = s.rxbuf := rfl
@[simp] theorem State.withFetchWord_rxchk (s : State) (nbits w : Nat) : (s.withFetchWord nbits w).rxchk = s.rxchk := rfl
@[simp] theorem State.withFetchWord_rxcrc (s : State) (nbits w : Nat) : (s.withFetchWord nbits w).rxcrc = s.rxcrc := rfl
@[simp] theorem State.withFetchWord_rxrd (s : State) (nbits w : Nat) : (s.withFetchWord nbits w).rxrd = s.rxrd := rfl
@[simp] theorem State.withFetchWord_rxflags (s : State) (nbits w : Nat) : (s.withFetchWord nbits w).rxflags = s.rxflags := rfl
@[simp] theorem State.withFetchWord_cmdflags (s : State) (nbits w : Nat) : (s.withFetchWord nbits w).cmdflags = s.cmdflags := rfl
@[simp] theorem State.withFetchWord_input (s : State) (nbits w : Nat) : (s.withFetchWord nbits w).input = tableWord nbits w :: s.input := rfl
@[simp] theorem State.withFetchWord_resps (s : State) (nbits w : Nat) : (s.withFetchWord nbits w).resps = s.resps := rfl

@[simp] theorem State.respond_rxValid (s : State) (r : Resp) : (s.respond r).rxValid = s.rxValid := rfl
@[simp] theorem State.respond_txstat (s : State) (r : Resp) : (s.respond r).txstat = s.txstat := rfl
@[simp] theorem State.respond_rxstat (s : State) (r : Resp) : (s.respond r).rxstat = s.rxstat := rfl
@[simp] theorem State.respond_cmdstat (s : State) (r : Resp) : (s.respond r).cmdstat = s.cmdstat := rfl

end Sys2Proof.Machine
end

