-- ==== Sys2Proof/Laws/Ops.lean ====
section
/-! SUPPORT. What each shared way of answering can do, and the indices and values the status computations give. -/

namespace Sys2Proof.Machine

/-- A command that completes with no data changes nothing but the response log. -/
theorem complete_next_iff {s t : State} : complete s = .next t ↔ t = s.respond Resp.none := by
  simp [complete, eq_comm]

/-- A command that returns a byte changes nothing but the response log. -/
theorem completeWith_next_iff {b : Byte} {s t : State} : completeWith b s = .next t ↔ t = s.respond (Resp.ofByte b) := by
  simp [completeWith, eq_comm]

/-- R156: the SEQUENCE bit and the response are all that changes. -/
theorem raiseSequence_next_iff {s t : State} :
    raiseSequence s = .next t ↔
      t = { s with cmdflags := { s.cmdflags with sequence := true }, resps := s.resps ++ [Resp.none] } := by
  simp [raiseSequence, State.respond, eq_comm]

/-- R157: the ILLEGAL bit and the response are all that changes. -/
theorem raiseIllegal_next_iff {s t : State} :
    raiseIllegal s = .next t ↔
      t = { s with cmdflags := { s.cmdflags with illegal := true }, resps := s.resps ++ [Resp.none] } := by
  simp [raiseIllegal, State.respond, eq_comm]

theorem RxFlags.anyBad_eq_false {f : RxFlags} :
    f.anyBad = false ↔ f.badPrefix = false ∧ f.badPostfix = false ∧ f.badCrc = false ∧ f.badEncoding = false ∧
      f.badDataSize = false := by
  simp [RxFlags.anyBad, and_assoc]

theorem State.rxValid_iff {s : State} : s.rxValid = true ↔ s.rxst = .done ∧ s.rxflags.anyBad = false := by
  simp [State.rxValid]

/-- With ERR_SELECT = PRIORITY the reported code is R154's chain, however many flags are set. -/
theorem primary_of_priority (h : errSelect = .priority) (draw : Nat) (f : RxFlags) :
    primary draw f = primaryByPriority f := by
  obtain ⟨a, b, c, d, e, x⟩ := f
  cases a <;> cases b <;> cases c <;> cases d <;> cases e <;> simp [primary, RxFlags.codes, primaryByPriority, h]

/-- With ERR_SELECT = ANY the reported code is R154's draw, however many flags are set. -/
theorem primary_of_any (h : errSelect = .any) (draw : Nat) (f : RxFlags) :
    primary draw f = primaryByDraw draw f := by
  unfold primary
  split
  · next hc => simp [primaryByDraw, hc]
  · next c hc => simp [primaryByDraw, hc, Nat.mod_one]
  · simp [h]

/-- EXTRA never affects the reported code (R117): neither the choice among the set flags nor the draw reads it. -/
@[simp] theorem primary_extra (draw : Nat) (f : RxFlags) (x : Bool) : primary draw { f with extra := x } = primary draw f :=
  rfl

@[simp] theorem State.errDraw_extra (s : State) (x : Bool) :
    State.errDraw { s with rxflags := { s.rxflags with extra := x } } = s.errDraw := rfl

/-- No response in the log affects the draw, so RX_ERR repeats its answer (R117). -/
@[simp] theorem State.respond_errDraw (s : State) (r : Resp) : (s.respond r).errDraw = s.errDraw := rfl

/-- R12 over a longer list. -/
theorem allAscii_append (as bs : List Byte) : allAscii (as ++ bs) = (allAscii as && allAscii bs) :=
  List.all_append

@[simp] theorem allAscii_nil : allAscii [] = true := rfl

@[simp] theorem allAscii_cons (b : Byte) (bs : List Byte) : allAscii (b :: bs) = (isAscii b && allAscii bs) := rfl

end Sys2Proof.Machine
end

