-- ==== Sys2Proof/Laws/Step.lean ====
section
/-! SUPPORT. What a step and a run are made of. -/

namespace Sys2Proof.Machine

theorem fetch_nil {s : State} (h : s.input = []) : fetch s = none := by simp [fetch, h]

theorem fetch_cons {s : State} {w : Word} {ws : List Word} (h : s.input = w :: ws) :
    fetch s = some (w, { s with input := ws }) := by simp [fetch, h]

/-- The step takes the host's next word and runs it. -/
theorem step_cons {s : State} {w : Word} {ws : List Word} (h : s.input = w :: ws) :
    step s = runWord w { s with input := ws } := by simp [step, fetch_cons h]

theorem runWord_command {w : Word} {i : Instr} (h : decode w = .command i) (s : State) : runWord w s = exec i s := by
  simp [runWord, h]

theorem runWord_illegal {w : Word} {c : Byte} (h : decode w = .illegal c) (s : State) :
    runWord w s = raiseIllegal s := by
  simp [runWord, h, execIllegal]

/-- Every way an answer is made leaves the host's queue as the answering state has it. -/
def KeepsInput (q : List Word) (o : Outcome) : Prop := ∀ t, o = .next t → t.input = q

theorem keepsInput_complete {q : List Word} {s : State} (h : s.input = q) : KeepsInput q (complete s) :=
  fun t ht => by rw [complete_next_iff.mp ht]; exact h

theorem keepsInput_completeWith {q : List Word} {s : State} (b : Byte) (h : s.input = q) :
    KeepsInput q (completeWith b s) :=
  fun t ht => by rw [completeWith_next_iff.mp ht]; exact h

theorem keepsInput_raiseSequence {q : List Word} {s : State} (h : s.input = q) : KeepsInput q (raiseSequence s) :=
  fun t ht => by rw [raiseSequence_next_iff.mp ht]; exact h

theorem keepsInput_fault {q : List Word} (f : Fault) : KeepsInput q (.fault f) := fun _ h => nomatch h

theorem keepsInput_ite {q : List Word} {c : Prop} [Decidable c] {a b : Outcome} (ha : KeepsInput q a)
    (hb : KeepsInput q b) : KeepsInput q (if c then a else b) := by split <;> assumption

/-- No command touches the host's queue. -/
theorem exec_keepsInput (i : Instr) (s : State) : KeepsInput s.input (exec i s) := by
  have hc := @keepsInput_complete
  have hw := @keepsInput_completeWith
  have hs := @keepsInput_raiseSequence
  cases i with
  | nop | sreset | cmdClr | crcInit | crcFeed | txStart | rxStart => exact hc rfl
  | cmdStat | crcRead | txStat | rxStat | rxErr => exact hw _ rfl
  | txPush => exact keepsInput_ite (hs rfl) (keepsInput_ite (hc rfl) (hc rfl))
  | txEnd => exact keepsInput_ite (hs rfl) (keepsInput_ite (hc rfl) (hc rfl))
  | txPop => exact keepsInput_ite (hs rfl) (hw _ rfl)
  | rxRdlen | rxRdopc | rxPop => exact keepsInput_ite (hw _ rfl) (hs rfl)
  | rxPush d =>
    show KeepsInput s.input (execRxPush d s)
    unfold execRxPush
    split
    · exact hs rfl
    · exact hc rfl
    · exact hc rfl
    · exact hc rfl
    · exact keepsInput_ite (keepsInput_fault _) (hc rfl)
    · exact hc rfl
    · exact hc rfl
    · exact hc rfl
  | rxEnd d =>
    show KeepsInput s.input (execRxEnd s)
    unfold execRxEnd
    split
    · exact hs rfl
    all_goals exact hc rfl

theorem exec_input {i : Instr} {s t : State} (h : exec i s = .next t) : t.input = s.input := exec_keepsInput i s t h

@[simp] theorem issue_nil (s : State) : issue [] s = .next { s with input := [] } := rfl

/-- One more step of the host's run. -/
theorem run_succ {M : Host.Core} {s s' : M.State} (h : M.step s = .next s') (k : Nat) :
    M.run (k + 1) s = M.run k s' := by simp only [Host.Core.run, h]

/-- A run is its first word and then the run of the rest. -/
theorem issue_cons {w : Word} {ws : List Word} {s t : State} (h : runWord w { s with input := ws } = .next t)
    (ht : t.input = ws) : issue (w :: ws) s = issue ws t := by
  have hs : Sys2Proof.core.step { s with input := w :: ws } = .next t :=
    (step_cons (s := { s with input := w :: ws }) rfl).trans h
  have hi : ({ t with input := ws } : State) = t := by rw [← ht]
  rw [issue, issue, hi]
  exact run_succ hs ws.length

/-- The same state with another queue. -/
def State.setInput (s : State) (q : List Word) : State := { s with input := q }

/-- The same answer with another queue in the next state. -/
def withInput (q : List Word) : Outcome → Outcome
  | .next t => .next (t.setInput q)
  | .fault f => .fault f
  | .refused r => .refused r

theorem withInput_ite {c : Prop} [Decidable c] {q : List Word} {a b a' b' : Outcome} (ha : a' = withInput q a)
    (hb : b' = withInput q b) : (if c then a' else b') = withInput q (if c then a else b) := by split <;> assumption

/-- No command looks at the host's queue. -/
theorem exec_withInput (i : Instr) (s : State) (q : List Word) : exec i (s.setInput q) = withInput q (exec i s) := by
  cases i with
  | txPush => exact withInput_ite rfl (withInput_ite rfl rfl)
  | txEnd => exact withInput_ite rfl (withInput_ite rfl rfl)
  | txPop | rxRdlen | rxRdopc | rxPop => exact withInput_ite rfl rfl
  | rxPush d =>
    show execRxPush d _ = withInput q (execRxPush d s)
    unfold execRxPush
    rw [show (s.setInput q).rxst = s.rxst from rfl]
    cases s.rxst with
    | atPayload => exact withInput_ite rfl rfl
    | idle | atPrefix | atLen | atOpc | atChk | atSuf | done => rfl
  | rxEnd d =>
    show execRxEnd _ = withInput q (execRxEnd s)
    unfold execRxEnd
    rw [show (s.setInput q).rxst = s.rxst from rfl]
    cases s.rxst <;> rfl
  | nop | sreset | cmdStat | cmdClr | crcInit | crcFeed | crcRead | txStart | txStat | rxStart | rxStat | rxErr => rfl

/-- A run does not depend on what the queue held before it. -/
theorem issue_setInput (ws q : List Word) (s : State) : issue ws (s.setInput q) = issue ws s := rfl

/-- A run that begins with a command goes on from that command's next state. -/
theorem issue_command {w : Word} {i : Instr} {s t : State} (hw : decode w = .command i) (h : exec i s = .next t)
    (ws : List Word) : issue (w :: ws) s = issue ws t := by
  have hr : runWord w { s with input := ws } = .next { t with input := ws } := by
    rw [runWord_command hw]
    show exec i (s.setInput ws) = _
    rw [exec_withInput, h]
    rfl
  rw [issue_cons hr rfl]
  exact issue_setInput ws ws t

end Sys2Proof.Machine
end

