-- ==== Sys2Proof/Laws/Effect.lean ====
section
/-! SUPPORT. Everything one command can do, said once: `exec i s` answers next t only in one of the cases of `Effect`, so an
invariant or a frame is a case analysis of `Effect`, not of the meanings. -/

namespace Sys2Proof.Machine

/-- The cases of one command's effect, one constructor per branch of the spec's pseudocode. -/
inductive Effect (s : State) : Instr → State → Prop
  | nop (d : Byte) : Effect s (.nop d) (s.respond Resp.none)
  | sreset (d : Byte) : Effect s (.sreset d) (s.softReset.respond Resp.none)
  | cmdStat (d : Byte) : Effect s (.cmdStat d) (s.respond (Resp.ofByte s.cmdstat))
  | cmdClr (d : Byte) : Effect s (.cmdClr d) (State.respond { s with cmdflags := CmdFlags.clear } Resp.none)
  | crcInit (d : Byte) : Effect s (.crcInit d) (State.respond { s with crc := Config.crcInit } Resp.none)
  | crcFeed (d : Byte) : Effect s (.crcFeed d) (State.respond { s with crc := crcStep s.crc d } Resp.none)
  | crcRead (d : Byte) : Effect s (.crcRead d) (s.respond (Resp.ofByte s.crc))
  | txStart (d : Byte) : Effect s (.txStart d) (State.respond { s with
      txst := .opened, txopc := d, txcnt := 0, txcrc := crcStep Config.crcInit d, txrd := 0
      txflags := TxFlags.clear } Resp.none)
  | txPushFull (d : Byte) (hst : s.txst = .opened) (hcnt : s.txcnt = 255) : Effect s (.txPush d)
      (State.respond { s with txflags := { s.txflags with tooLong := true } } Resp.none)
  | txPush (d : Byte) (hst : s.txst = .opened) (hcnt : s.txcnt ≠ 255) : Effect s (.txPush d) (State.respond { s with
      txbuf := s.txbuf.write s.txcnt.toNat d
      txcnt := s.txcnt + 1
      txcrc := crcStep s.txcrc d
      txflags := { s.txflags with nonAscii := s.txflags.nonAscii || !isAscii d } } Resp.none)
  | txEndReject (d : Byte) (hst : s.txst = .opened)
      (hbad : (s.txcnt == 0 || s.txflags.tooLong || s.txflags.nonAscii) = true) : Effect s (.txEnd d)
      (State.respond { s with
        txst := .idle
        txflags := { s.txflags with invalidPayload := true, empty := s.txflags.empty || s.txcnt == 0 } } Resp.none)
  | txEnd (d : Byte) (hst : s.txst = .opened)
      (hok : (s.txcnt == 0 || s.txflags.tooLong || s.txflags.nonAscii) = false) : Effect s (.txEnd d)
      (State.respond { s with txst := .ready, txrd := 0 } Resp.none)
  | txPop (d : Byte) (hst : s.txst = .ready) : Effect s (.txPop d) (State.respond { s with
      txrd := s.txrd + 1
      txst := if s.txrd.toNat + 1 = 5 + s.txcnt.toNat then .idle else s.txst }
      (Resp.ofByte (txByte s s.txrd.toNat)))
  | txStat (d : Byte) : Effect s (.txStat d) (s.respond (Resp.ofByte s.txstat))
  | rxStart (d : Byte) : Effect s (.rxStart d) (State.respond { s with
      rxst := .atPrefix, rxlen := 0, rxopc := 0x00, rxcnt := 0, rxchk := 0x00, rxcrc := Config.crcInit, rxrd := 0
      rxflags := RxFlags.clear } Resp.none)
  | rxPushPrefix (d : Byte) (hst : s.rxst = .atPrefix) : Effect s (.rxPush d) (State.respond { s with
      rxflags := { s.rxflags with badPrefix := s.rxflags.badPrefix || d != prefixByte }
      rxst := .atLen } Resp.none)
  | rxPushLen (d : Byte) (hst : s.rxst = .atLen) : Effect s (.rxPush d)
      (State.respond { s with rxlen := d, rxst := .atOpc } Resp.none)
  | rxPushOpc (d : Byte) (hst : s.rxst = .atOpc) : Effect s (.rxPush d) (State.respond { s with
      rxopc := d
      rxcrc := crcStep Config.crcInit d
      rxflags := { s.rxflags with badDataSize := s.rxflags.badDataSize || s.rxlen == 0 }
      rxst := if s.rxlen = 0 then .atChk else .atPayload } Resp.none)
  | rxPushPayload (d : Byte) (hst : s.rxst = .atPayload) (hcnt : s.rxcnt ≠ 255) : Effect s (.rxPush d)
      (State.respond { s with
        rxbuf := s.rxbuf.write s.rxcnt.toNat d
        rxcnt := s.rxcnt + 1
        rxcrc := crcStep s.rxcrc d
        rxflags := { s.rxflags with badEncoding := s.rxflags.badEncoding || !isAscii d }
        rxst := if s.rxcnt.toNat + 1 = s.rxlen.toNat then .atChk else .atPayload } Resp.none)
  | rxPushChk (d : Byte) (hst : s.rxst = .atChk) : Effect s (.rxPush d)
      (State.respond { s with rxchk := d, rxst := .atSuf } Resp.none)
  | rxPushSuf (d : Byte) (hst : s.rxst = .atSuf) : Effect s (.rxPush d) (State.respond { s with
      rxflags := { s.rxflags with
        badPostfix := s.rxflags.badPostfix || d != suffixByte
        badCrc := s.rxflags.badCrc || s.rxchk != s.rxcrc }
      rxst := .done } Resp.none)
  | rxPushDone (d : Byte) (hst : s.rxst = .done) : Effect s (.rxPush d)
      (State.respond { s with rxflags := { s.rxflags with extra := true } } Resp.none)
  | rxEndDone (d : Byte) (hst : s.rxst = .done) : Effect s (.rxEnd d) (s.respond Resp.none)
  | rxEndShort (d : Byte) (hst : s.rxst ≠ .idle) (hst' : s.rxst ≠ .done) : Effect s (.rxEnd d)
      (State.respond { s with rxflags := { s.rxflags with badDataSize := true }, rxst := .done } Resp.none)
  | rxStat (d : Byte) : Effect s (.rxStat d) (s.respond (Resp.ofByte s.rxstat))
  | rxErr (d : Byte) : Effect s (.rxErr d) (s.respond (Resp.ofByte (primary s.errDraw s.rxflags)))
  | rxRdlen (d : Byte) (hv : s.rxValid = true) : Effect s (.rxRdlen d) (s.respond (Resp.ofByte s.rxlen))
  | rxRdopc (d : Byte) (hv : s.rxValid = true) : Effect s (.rxRdopc d) (s.respond (Resp.ofByte s.rxopc))
  | rxPop (d : Byte) (hv : s.rxValid = true) (hrd : s.rxrd.toNat < s.rxlen.toNat) : Effect s (.rxPop d)
      (State.respond { s with rxrd := s.rxrd + 1 } (Resp.ofByte (s.rxbuf.read s.rxrd.toNat)))
  /-- R156, for each of the eight commands that have a state check. -/
  | sequence (i : Instr) (hp : permitted i s = false) : Effect s i
      (State.respond { s with cmdflags := { s.cmdflags with sequence := true } } Resp.none)

theorem effect_of_execTxPush {d : Byte} {s t : State} (h : execTxPush d s = .next t) : Effect s (.txPush d) t := by
  unfold execTxPush at h
  split at h
  · rename_i hst; cases h; exact .sequence _ (by simpa [permitted] using hst)
  · rename_i hst; rw [ne_eq, Decidable.not_not] at hst
    split at h <;> cases h
    · exact .txPushFull d hst ‹_›
    · exact .txPush d hst ‹_›

theorem effect_of_execTxEnd {d : Byte} {s t : State} (h : execTxEnd s = .next t) : Effect s (.txEnd d) t := by
  unfold execTxEnd at h
  dsimp only at h
  split at h
  · rename_i hst; cases h; exact .sequence _ (by simpa [permitted] using hst)
  · rename_i hst; rw [ne_eq, Decidable.not_not] at hst
    split at h <;> cases h
    · exact .txEndReject d hst ‹_›
    · exact .txEnd d hst (Bool.eq_false_iff.mpr ‹_›)

theorem effect_of_execTxPop {d : Byte} {s t : State} (h : execTxPop s = .next t) : Effect s (.txPop d) t := by
  unfold execTxPop at h
  split at h
  · rename_i hst; cases h; exact .sequence _ (by simpa [permitted] using hst)
  · rename_i hst; rw [ne_eq, Decidable.not_not] at hst
    cases h; exact .txPop d hst

theorem effect_of_execRxPush {d : Byte} {s t : State} (h : execRxPush d s = .next t) : Effect s (.rxPush d) t := by
  unfold execRxPush at h
  split at h
  · rename_i hst; cases h; exact .sequence _ (by simp [permitted, hst])
  · rename_i hst; cases h; exact .rxPushPrefix d hst
  · rename_i hst; cases h; exact .rxPushLen d hst
  · rename_i hst; cases h; exact .rxPushOpc d hst
  · rename_i hst; unfold rxPushPayload at h
    split at h <;> cases h
    exact .rxPushPayload d hst ‹_›
  · rename_i hst; cases h; exact .rxPushChk d hst
  · rename_i hst; cases h; exact .rxPushSuf d hst
  · rename_i hst; cases h; exact .rxPushDone d hst

theorem effect_of_execRxEnd {d : Byte} {s t : State} (h : execRxEnd s = .next t) : Effect s (.rxEnd d) t := by
  unfold execRxEnd at h
  split at h
  · rename_i hst; cases h; exact .sequence _ (by simp [permitted, hst])
  · rename_i hst; cases h; exact .rxEndDone d hst
  all_goals rename_i hst; cases h; exact .rxEndShort d (by simp [hst]) (by simp [hst])

/-- The inversion of exec. -/
theorem effect_of_exec {i : Instr} {s t : State} (h : exec i s = .next t) : Effect s i t := by
  cases i with
  | nop d => cases h; exact .nop d
  | sreset d => cases h; exact .sreset d
  | cmdStat d => cases h; exact .cmdStat d
  | cmdClr d => cases h; exact .cmdClr d
  | crcInit d => cases h; exact .crcInit d
  | crcFeed d => cases h; exact .crcFeed d
  | crcRead d => cases h; exact .crcRead d
  | txStart d => cases h; exact .txStart d
  | txPush d => exact effect_of_execTxPush h
  | txEnd d => exact effect_of_execTxEnd h
  | txPop d => exact effect_of_execTxPop h
  | txStat d => cases h; exact .txStat d
  | rxStart d => cases h; exact .rxStart d
  | rxPush d => exact effect_of_execRxPush h
  | rxEnd d => exact effect_of_execRxEnd h
  | rxStat d => cases h; exact .rxStat d
  | rxErr d => cases h; exact .rxErr d
  | rxRdlen d =>
    simp only [exec, execRxRdlen] at h
    split at h <;> rename_i hv <;> cases h
    · exact .rxRdlen d hv
    · exact .sequence _ (by simpa [permitted] using hv)
  | rxRdopc d =>
    simp only [exec, execRxRdopc] at h
    split at h <;> rename_i hv <;> cases h
    · exact .rxRdopc d hv
    · exact .sequence _ (by simpa [permitted] using hv)
  | rxPop d =>
    simp only [exec, execRxPop] at h
    split at h <;> rename_i hv <;> cases h
    · exact .rxPop d hv.1 hv.2
    · exact .sequence _ (by simpa [permitted] using hv)

end Sys2Proof.Machine
end

