-- ==== Sys2Proof/Laws/PerInstr.lean ====
section
/-! SUPPORT. Per-instruction families: one lemma per constructor of Instr. -/

namespace Sys2Proof.Laws

/-- The encoded word carries a legal code, and the command's own operand byte. -/
def EncodesLegally.Statement (i : Instr) : Prop :=
  legalWord (encode i) = true ∧ Word.operand (encode i) = i.operand

theorem encodesLegally_of_code {i : Instr} (h : illegalCode i.code = false) : EncodesLegally.Statement i := by
  refine ⟨?_, encode_operand i⟩
  have : Word.cmd (encode i) = i.code := encode_cmd i
  simp only [Word.cmd] at this
  simp [legalWord, this, h]

theorem EncodesLegally.nop (d : Byte) : EncodesLegally.Statement (.nop d) := by
  exact encodesLegally_of_code (by rw [Instr.code]; decide)
theorem EncodesLegally.sreset (d : Byte) : EncodesLegally.Statement (.sreset d) := by
  exact encodesLegally_of_code (by rw [Instr.code]; decide)
theorem EncodesLegally.cmdStat (d : Byte) : EncodesLegally.Statement (.cmdStat d) := by
  exact encodesLegally_of_code (by rw [Instr.code]; decide)
theorem EncodesLegally.cmdClr (d : Byte) : EncodesLegally.Statement (.cmdClr d) := by
  exact encodesLegally_of_code (by rw [Instr.code]; decide)
theorem EncodesLegally.crcInit (d : Byte) : EncodesLegally.Statement (.crcInit d) := by
  exact encodesLegally_of_code (by rw [Instr.code]; decide)
theorem EncodesLegally.crcFeed (d : Byte) : EncodesLegally.Statement (.crcFeed d) := by
  exact encodesLegally_of_code (by rw [Instr.code]; decide)
theorem EncodesLegally.crcRead (d : Byte) : EncodesLegally.Statement (.crcRead d) := by
  exact encodesLegally_of_code (by rw [Instr.code]; decide)
theorem EncodesLegally.txStart (d : Byte) : EncodesLegally.Statement (.txStart d) := by
  exact encodesLegally_of_code (by rw [Instr.code]; decide)
theorem EncodesLegally.txPush (d : Byte) : EncodesLegally.Statement (.txPush d) := by
  exact encodesLegally_of_code (by rw [Instr.code]; decide)
theorem EncodesLegally.txEnd (d : Byte) : EncodesLegally.Statement (.txEnd d) := by
  exact encodesLegally_of_code (by rw [Instr.code]; decide)
theorem EncodesLegally.txPop (d : Byte) : EncodesLegally.Statement (.txPop d) := by
  exact encodesLegally_of_code (by rw [Instr.code]; decide)
theorem EncodesLegally.txStat (d : Byte) : EncodesLegally.Statement (.txStat d) := by
  exact encodesLegally_of_code (by rw [Instr.code]; decide)
theorem EncodesLegally.rxStart (d : Byte) : EncodesLegally.Statement (.rxStart d) := by
  exact encodesLegally_of_code (by rw [Instr.code]; decide)
theorem EncodesLegally.rxPush (d : Byte) : EncodesLegally.Statement (.rxPush d) := by
  exact encodesLegally_of_code (by rw [Instr.code]; decide)
theorem EncodesLegally.rxEnd (d : Byte) : EncodesLegally.Statement (.rxEnd d) := by
  exact encodesLegally_of_code (by rw [Instr.code]; decide)
theorem EncodesLegally.rxStat (d : Byte) : EncodesLegally.Statement (.rxStat d) := by
  exact encodesLegally_of_code (by rw [Instr.code]; decide)
theorem EncodesLegally.rxErr (d : Byte) : EncodesLegally.Statement (.rxErr d) := by
  exact encodesLegally_of_code (by rw [Instr.code]; decide)
theorem EncodesLegally.rxRdlen (d : Byte) : EncodesLegally.Statement (.rxRdlen d) := by
  exact encodesLegally_of_code (by rw [Instr.code]; decide)
theorem EncodesLegally.rxRdopc (d : Byte) : EncodesLegally.Statement (.rxRdopc d) := by
  exact encodesLegally_of_code (by rw [Instr.code]; decide)
theorem EncodesLegally.rxPop (d : Byte) : EncodesLegally.Statement (.rxPop d) := by
  exact encodesLegally_of_code (by rw [Instr.code]; decide)

end Sys2Proof.Laws
end

