-- ==== Sys2Proof/Tests/Slice0.lean ====
section
/-! SUPPORT. The model's own tests, their expected values taken from the spec (the rule or the section of
95_test_vectors.md each names), and for every obligation with hypotheses a state and operands that meet them. -/

namespace Sys2Proof.Tests

open Sys2Proof.Machine

/-! ## Helpers -/

/-- The next state, if there is one. -/
def nextOf : Outcome → Option State
  | .next t => some t
  | .fault _ | .refused _ => none

/-- The response of the one command that answered. -/
def respOf (o : Outcome) : Option Resp := (nextOf o).bind fun t => t.resps.getLast?

/-- OPEN after `TX_START 0xC0` (R92), with the given count of pushed bytes. -/
def opened (n : Byte) : State := { State.reset with txst := .opened, txopc := 0xC0, txcnt := n, txcrc := 0xEB }

/-- READY with the frame of opcode 0xC0 and payload "A" (R96's example), frame byte i next. -/
def ready (i : BitVec 9) : State :=
  { State.reset with txst := .ready, txopc := 0xC0, txcnt := 1, txbuf := [(0, 0x41)], txcrc := 0x27, txrd := i }

/-- The deserializer in a given state. -/
def rxIn (r : RxSt) : State := { State.reset with rxst := r }

/-- DONE with the accepted frame of opcode 0xC0 and payload "A" (R114's example), payload byte i next. -/
def accepted (i : Byte) : State :=
  { State.reset with
    rxst := .done, rxlen := 1, rxopc := 0xC0, rxcnt := 1, rxbuf := [(0, 0x41)], rxchk := 0x27, rxcrc := 0x27, rxrd := i }

/-- DONE with a rejected frame: the suffix was wrong. -/
def rejected : State := { accepted 0 with rxflags := { RxFlags.clear with badPostfix := true } }

/-- The frame of opcode 0xC0 and payload "A": 95_test_vectors.md section 2.3. -/
def frameA : List Byte := [prefixByte, 0x01, 0xC0, 0x41, 0x27, suffixByte]

/-! ## Decoding and encoding -/

/-- R63's table, one word per row; the operands are those of the program of 95_test_vectors.md L1-5 where it has them. -/
theorem test_decode_control :
    decode 0x0000 = .command (.nop 0) ∧ decode 0x0100 = .command (.sreset 0) ∧
    decode 0x0200 = .command (.cmdStat 0) ∧ decode 0x03FF = .command (.cmdClr 0xFF) := by decide

theorem test_decode_crc :
    decode 0x1000 = .command (.crcInit 0) ∧ decode 0x1131 = .command (.crcFeed 0x31) ∧
    decode 0x1200 = .command (.crcRead 0) := by decide

theorem test_decode_tx :
    decode 0x20C0 = .command (.txStart 0xC0) ∧ decode 0x2154 = .command (.txPush 0x54) ∧
    decode 0x2200 = .command (.txEnd 0) ∧ decode 0x2300 = .command (.txPop 0) ∧
    decode 0x2400 = .command (.txStat 0) := by decide

theorem test_decode_rx :
    decode 0x3000 = .command (.rxStart 0) ∧ decode 0x31AA = .command (.rxPush 0xAA) ∧
    decode 0x3200 = .command (.rxEnd 0) ∧ decode 0x3300 = .command (.rxStat 0) ∧
    decode 0x3400 = .command (.rxErr 0) ∧ decode 0x3500 = .command (.rxRdlen 0) ∧
    decode 0x3600 = .command (.rxRdopc 0) ∧ decode 0x3780 = .command (.rxPop 0x80) := by decide

/-- R65: the ends of the four illegal ranges. -/
theorem test_decode_illegal :
    ∀ c ∈ [0x04#8, 0x0F#8, 0x13#8, 0x1F#8, 0x25#8, 0x2F#8, 0x38#8, 0xFF#8], decode (c ++ 0x5A#8) = .illegal c := by decide

theorem test_encode :
    encode (.txStart 0xC0) = 0x20C0 ∧ encode (.rxPush 0x27) = 0x3127 ∧ encode (.txEnd 0) = 0x2200 := by decide

theorem test_decodeTableWord :
    decodeTableWord 16 0x2141 = some (.txPush 0x41) ∧ decodeTableWord 16 0x7F00 = none ∧
    decodeTableWord 24 0x2141 = none := by decide

/-! ## Well-formed terms and words -/

/-- R62: an assembler writes 0 for an ignored D. -/
theorem test_wellFormed_refuses_ignored_operand :
    (Instr.nop 0x55).wellFormed = false ∧ (Instr.txPop 0x01).wellFormed = false ∧
    (Instr.rxEnd 0x80).wellFormed = false ∧ (Instr.txPush 0x55).wellFormed = true ∧ (Instr.nop 0).wellFormed = true := by
  decide

/-- R65, R66. -/
theorem test_legalWord_refuses_undefined_codes :
    legalWord 0x0400 = false ∧ legalWord 0x1300 = false ∧ legalWord 0x2500 = false ∧ legalWord 0x3800 = false ∧
    legalWord 0x7F00 = false ∧ legalWord 0x37FF = true ∧ legalWord 0x0355 = true := by decide

theorem test_illegalCode_counts_236 : ((List.range 256).filter fun n => illegalCode (BitVec.ofNat 8 n)).length = 236 := by
  decide +kernel

/-- The canonical form refuses an entry out of order, a zero entry and an entry that does not exist. -/
theorem test_memory_wf_refuses :
    ¬ Memory.wf [(1, 0x41), (0, 0x42)] ∧ ¬ Memory.wf [(0, 0x00)] ∧ ¬ Memory.wf [(255, 0x41)] ∧
    Memory.wf [(0, 0x41), (254, 0x42)] := by decide

/-! ## The CRC function: 95_test_vectors.md section 2.1 -/

theorem test_crcStep :
    crcStep 0x00 0x01 = 0x31 ∧ crcStep 0x00 0x80 = 0x7A ∧ crcStep 0xFF 0x00 = 0xAC ∧ crcStep 0xFF 0xC0 = 0xEB ∧
    crcStep 0xFF 0xFF = 0x00 ∧ crcStep 0x27 0x41 = 0x1D := by decide

/-- The table's last column. -/
theorem test_crcTable_column_F :
    (List.range 16).map (fun r => crcStep 0x00 (BitVec.ofNat 8 (16 * r + 15))) =
      [0x2E, 0x6D, 0xA8, 0xEB, 0x13, 0x50, 0x95, 0xD6, 0x54, 0x17, 0xD2, 0x91, 0x69, 0x2A, 0xEF, 0xAC] := by decide

theorem test_crc8_frame_checksums :
    crc8 [] = 0xFF ∧ crc8 [0xC0, 0x41] = 0x27 ∧ crc8 [0x00, 0x41] = 0x8D ∧
    crc8 [0xC0, 0x48, 0x69, 0x21, 0x0D, 0x0A] = 0xBC := by decide +kernel

/-! ## The whole-frame functions -/

/-- L1-6's "Hi!\r\n" frame, encoded and decoded, with symbolic sentinels. -/
theorem test_encodeFrame_hi :
    encodeFrame 0xC0 [0x48, 0x69, 0x21, 0x0D, 0x0A] =
      .ok [prefixByte, 0x05, 0xC0, 0x48, 0x69, 0x21, 0x0D, 0x0A, 0xBC, suffixByte] := by
  rw [encodeFrame, if_neg (by decide), show crc8 [0xC0, 0x48, 0x69, 0x21, 0x0D, 0x0A] = 0xBC by decide +kernel]
  rfl

theorem test_decodeFrame_hi :
    (decodeFrame [prefixByte, 0x05, 0xC0, 0x48, 0x69, 0x21, 0x0D, 0x0A, 0xBC, suffixByte]).valid = true := by
  have h : crc8 [0xC0, 0x48, 0x69, 0x21, 0x0D, 0x0A] = 0xBC := by decide +kernel
  simp only [decodeFrame]
  simp [allAscii, isAscii]
  exact h.symm

/-- R115's example: the frame ends after one of five payload bytes. -/
theorem test_decodeFrame_short :
    (decodeFrame [prefixByte, 0x05, 0xC0, 0x48]).flags = { RxFlags.clear with badDataSize := true } := by
  simp [decodeFrame, RxFlags.clear, allAscii, isAscii]

/-! ## One step of each command -/

/-- R141. -/
theorem test_nop : nextOf (exec (.nop 0x7F) (opened 3)) = some ((opened 3).respond ⟨false, 0⟩) := by decide

/-- R142's example: the flags and the frame are gone, CRC is 0xFF. -/
theorem test_sreset :
    (nextOf (exec (.sreset 0) { opened 1 with crc := 0x5A, cmdflags := ⟨true, true⟩ })).map
      (fun t => (t.txstat, t.cmdstat, t.crc)) = some (0x00, 0x00, 0xFF) := by decide

/-- R143's example, as the second command of a run. -/
theorem test_cmdStat_after_illegal :
    (nextOf (issue [0x7F00, 0x0200] State.reset)).map (fun t => t.resps) = some [⟨false, 0⟩, ⟨true, 0x01⟩] := by decide

/-- R144's example. -/
theorem test_cmdClr :
    (nextOf (exec (.cmdClr 0) { State.reset with cmdflags := ⟨true, true⟩ })).map (fun t => t.cmdstat) = some 0 := by decide

/-- R83's example. -/
theorem test_crcInit : (nextOf (exec (.crcInit 0) { State.reset with crc := 0x5A })).map (fun t => t.crc) = some 0xFF := by
  decide

/-- R84's example and corner case. -/
theorem test_crcFeed :
    (nextOf (exec (.crcFeed 0xC0) State.reset)).map (fun t => t.crc) = some 0xEB ∧
    (nextOf (exec (.crcFeed 0xFF) State.reset)).map (fun t => t.crc) = some 0x00 := by decide

/-- R85's corner case: straight after reset. -/
theorem test_crcRead : respOf (exec (.crcRead 0) State.reset) = some ⟨true, 0xFF⟩ := by decide

/-- R92's example. -/
theorem test_txStart :
    (nextOf (exec (.txStart 0xC0) (ready 2))).map (fun t => (t.txst, t.txcnt, t.txcrc, t.txrd)) =
      some (.opened, 0, 0xEB, 0) := by decide

/-- R93's example. -/
theorem test_txPush :
    (nextOf (exec (.txPush 0x41) (opened 0))).map (fun t => (t.txbuf.read 0, t.txcnt, t.txcrc)) =
      some (0x41, 1, 0x27) := by decide

/-- R93: the 256th byte sets TOOLONG, is discarded, and its bit 7 does not set NONASCII (section 2.3). -/
theorem test_txPush_256th :
    (nextOf (exec (.txPush 0x80) (opened 255))).map (fun t => (t.txcnt, t.txflags, t.txcrc)) =
      some (255, ⟨false, false, true, false⟩, 0xEB) := by decide

/-- R94's example: TXSTAT = 0x03. -/
theorem test_txEnd_empty : (nextOf (exec (.txEnd 0) (opened 0))).map (fun t => t.txstat) = some 0x03 := by decide

/-- R97's example: TXSTAT = 0x20 after a successful TX_END. -/
theorem test_txEnd_ready : (nextOf (exec (.txEnd 0) (opened 1))).map (fun t => t.txstat) = some 0x20 := by decide

/-- R96's example: the fourth and the fifth pop. -/
theorem test_txPop :
    respOf (exec (.txPop 0) (ready 3)) = some ⟨true, 0x41⟩ ∧ respOf (exec (.txPop 0) (ready 4)) = some ⟨true, 0x27⟩ := by
  decide

/-- R96's example: the sixth pop is the suffix, and the serializer is IDLE after it. -/
theorem test_txPop_suffix :
    exec (.txPop 0) (ready 5) = .next { ready 5 with txst := .idle, txrd := 6, resps := [⟨true, suffixByte⟩] } := rfl

/-- R97's example: OPEN with a non-ASCII byte pushed. -/
theorem test_txStat :
    respOf (exec (.txStat 0) { opened 1 with txflags := ⟨false, false, false, true⟩ }) = some ⟨true, 0x18⟩ := by decide

/-- R113's example. -/
theorem test_rxStart :
    (nextOf (exec (.rxStart 0) rejected)).map (fun t => (t.rxstat, t.rxst)) = some (0x00, .atPrefix) := by decide

/-- R114, D16: a zero length goes straight to CHK with BAD_DATASIZE. -/
theorem test_rxPush_zeroLength :
    (nextOf (exec (.rxPush 0xC0) (rxIn .atOpc))).map (fun t => (t.rxst, t.rxflags.badDataSize, t.rxcrc)) =
      some (.atChk, true, 0xEB) := by decide

/-- R114's example: the last payload byte. -/
theorem test_rxPush_lastPayloadByte :
    (nextOf (exec (.rxPush 0x41) { rxIn .atPayload with rxlen := 1, rxcrc := 0xEB })).map
      (fun t => (t.rxst, t.rxcnt, t.rxbuf.read 0, t.rxcrc)) = some (.atChk, 1, 0x41, 0x27) := by decide

/-- R115's corner case: RX_STAT is 0x30. -/
theorem test_rxEnd : (nextOf (exec (.rxEnd 0) (rxIn .atPrefix))).map (fun t => t.rxstat) = some 0x30 := by decide

/-- R115: in DONE nothing changes. -/
theorem test_rxEnd_done : (nextOf (exec (.rxEnd 0) (accepted 0))).map (fun t => t.rxstat) = some 0x60 := by decide

/-- R116's example: a good frame and one extra byte. -/
theorem test_rxStat :
    respOf (exec (.rxStat 0) { accepted 0 with rxflags := { RxFlags.clear with extra := true } }) = some ⟨true, 0xE0⟩ := by
  decide

/-- R115's example: RX_ERR is 5, whatever ERR_SELECT. -/
theorem test_rxErr :
    respOf (exec (.rxErr 0) { rxIn .done with rxflags := { RxFlags.clear with badDataSize := true } }) =
      some ⟨true, 5⟩ := by decide

/-- R117's example and L1-4: BadPostfix over BadEncoding, BadCRC over BadEncoding, with ERR_SELECT = PRIORITY. -/
theorem test_primaryByPriority :
    primaryByPriority ⟨false, true, false, true, false, false⟩ = 2 ∧
    primaryByPriority ⟨false, false, true, true, false, false⟩ = 3 ∧
    primaryByPriority ⟨false, true, true, false, true, true⟩ = 5 := by decide

/-- R117: EXTRA never affects RX_ERR, two flags set and whatever ERR_SELECT. -/
theorem test_rxErr_extra :
    respOf (exec (.rxErr 0) { rejected with rxflags := ⟨true, true, false, false, false, true⟩ }) =
      respOf (exec (.rxErr 0) { rejected with rxflags := ⟨true, true, false, false, false, false⟩ }) := rfl

/-- R119, R120. -/
theorem test_rxRdlen_rxRdopc :
    respOf (exec (.rxRdlen 0) (accepted 0)) = some ⟨true, 0x01⟩ ∧
    respOf (exec (.rxRdopc 0) (accepted 0)) = some ⟨true, 0xC0⟩ := by decide

/-- R119, R120: SEQUENCE unless VALID = 1. -/
theorem test_rxRdlen_rxRdopc_refused :
    (nextOf (exec (.rxRdlen 0) rejected)).map (fun t => t.cmdstat) = some 0x02 ∧
    (nextOf (exec (.rxRdopc 0) rejected)).map (fun t => t.cmdstat) = some 0x02 := by decide

/-- R121: the payload byte, and after the last one SEQUENCE. -/
theorem test_rxPop :
    respOf (exec (.rxPop 0) (accepted 0)) = some ⟨true, 0x41⟩ ∧
    (nextOf (exec (.rxPop 0) (accepted 1))).map (fun t => t.cmdstat) = some 0x02 := by decide

/-- R64's word: VALID is bit 8. -/
theorem test_resp_word : (Resp.ofByte 0x5A).word = 0x15A ∧ Resp.none.word = 0x000 := by decide

/-- The very next step after withFetchWord runs the word. -/
theorem test_withFetchWord :
    respOf (step (State.reset.withFetchWord 16 0x1200)) = some ⟨true, 0xFF⟩ ∧
    (nextOf (step (State.reset.withFetchWord 16 0x1300))).map (fun t => t.cmdstat) = some 0x01 := by decide

/-! ## The assembly notation -/

/-- R67: hexadecimal, decimal, an escape, a comment, no operand, the raw word. -/
theorem test_assembleLine_plain :
    assembleLine "TX_START 0xC0 ; open".toList = some [0x20C0] ∧ assembleLine "TX_PUSH 192".toList = some [0x21C0] ∧
    assembleLine "RX_END".toList = some [0x3200] ∧ assembleLine ".word 0x7F00".toList = some [0x7F00] ∧
    assembleLine "TX_PUSH 256".toList = none := by decide

/-- R67: the newline escape as a character literal (codes 39 and 92 are the quote and the backslash). -/
theorem test_assembleLine_char :
    assembleLine ("TX_PUSH ".toList ++ [Char.ofNat 39, Char.ofNat 92, 'n', Char.ofNat 39]) = some [0x210A] := by decide

/-- Log 17: a backslash that starts no escape of R67 has no meaning. -/
theorem test_assembleLine_refuses_other_escape :
    assembleLine ("TX_PUSH ".toList ++ [Char.ofNat 39, Char.ofNat 92, Char.ofNat 39]) = none := by decide

/-- R68: the expansions. -/
theorem test_assembleLine_pseudo :
    assembleLine "CRC_OF 0x31, 0x32".toList = some [0x1000, 0x1131, 0x1132, 0x1200] ∧
    assembleLine "TX_DRAIN 2".toList = some [0x2300, 0x2300] ∧
    assembleLine "RX_FRAME 0xAA".toList = some [0x3000, 0x31AA, 0x3200] := by decide

/-- R68: a string operand (code 34 is its quote). -/
theorem test_assembleLine_string :
    assembleLine ("TX_FRAME 0xC0, ".toList ++ [Char.ofNat 34, 'H', 'i', Char.ofNat 34]) =
      some [0x20C0, 0x2148, 0x2169, 0x2200] := by decide

/-! ## Witnesses: for every obligation with hypotheses, and for each of its clauses, data that meet them -/

theorem encodeFrame_A : encodeFrame 0xC0 [0x41] = .ok frameA := by
  rw [encodeFrame, if_neg (by decide), show crc8 [0xC0, 0x41] = 0x27 by decide +kernel]
  rfl

theorem encodeFrame_AAA :
    encodeFrame 0xC0 [0x41, 0x41, 0x41] =
      .ok ([prefixByte, 0x03, 0xC0, 0x41, 0x41, 0x41, crc8 [0xC0, 0x41, 0x41, 0x41], suffixByte]) := by
  rw [encodeFrame, if_neg (by decide)]
  rfl

theorem decodeFrame_A_valid : (decodeFrame frameA).valid = true := by
  have h : crc8 [0xC0, 0x41] = 0x27 := by decide +kernel
  simp only [frameA, decodeFrame]
  simp [allAscii, isAscii]
  exact h.symm

theorem reset_inv : State.reset.Inv := by constructor <;> decide +kernel

theorem opened_inv : (opened 0).Inv := by constructor <;> decide +kernel

theorem ready_inv : (ready 0).Inv ∧ (ready 5).Inv := by
  constructor <;> (constructor <;> decide +kernel)

theorem accepted_inv : (accepted 0).Inv ∧ (accepted 1).Inv := by
  constructor <;> (constructor <;> decide +kernel)

/-- OPEN with nothing pushed, and stale bytes in both buffers. -/
def openedStale : State := { opened 0 with txbuf := [(0, 0x55), (254, 0xAA)], rxbuf := [(7, 0x80)] }

theorem openedStale_inv : openedStale.Inv := by constructor <;> decide +kernel

theorem witness_EncodeOfDecodeIsIdentity : decode 0x20C0 = .command (.txStart 0xC0) := by decide

theorem witness_DecoderRejectsExactlyIllegalCodes : decode 0x0400 = .illegal 0x04 ∧ decode 0xFFFF = .illegal 0xFF := by
  decide

theorem witness_StepRunsDecodedCommand :
    (State.reset.withFetchWord 16 0x1131).input = [0x1131] ∧ decode 0x1131 = .command (.crcFeed 0x31) := by decide

theorem witness_IllegalWordSetsIllegalOnly :
    (State.reset.withFetchWord 16 0x7F00).input = [0x7F00] ∧ decode 0x7F00 = .illegal 0x7F := by decide

theorem witness_WaitingBlockIsUnchanged : State.reset.input = [] := rfl

theorem witness_OneResponsePerCommand :
    (State.reset.withFetchWord 16 0x1200).input = [0x1200] ∧
    (∃ t, step (State.reset.withFetchWord 16 0x1200) = .next t) ∧
    ∃ t, step (State.reset.withFetchWord 16 0x0000) = .next t ∧ t.resps = [⟨false, 0⟩] :=
  ⟨by decide, ⟨_, rfl⟩, ⟨_, rfl, rfl⟩⟩

theorem witness_CrcIsAffine : [0xC0#8, 0x41#8].length = [0x01#8, 0x80#8].length := rfl

theorem witness_SingleBitErrorIsDetected : 0 < 8 * 1 ∧ 127 < 8 * 16 ∧ bitError 16 127 = 0x80 :: List.replicate 15 0 := by
  decide

theorem witness_OddWeightErrorIsDetected : weight [0x80, 0x00, 0x03] % 2 = 1 := by decide

/-- R86(f)'s example: 127 bit positions apart in a 16-byte codeword; and a pair that is caught. -/
theorem witness_DoubleBitErrorEscapesIff127Apart : (0 < 127 ∧ 127 < 8 * 16) ∧ (0 < 126 ∧ 126 < 8 * 16) := by decide

theorem witness_TxPushAppendsOrMarksTooLong :
    State.reset.txst ≠ .opened ∧ (ready 0).txst ≠ .opened ∧
    ((opened 255).txst = .opened ∧ (opened 255).txcnt = 255) ∧
    ((opened 254).txst = .opened ∧ (opened 254).txcnt ≠ 255) ∧ (opened 0).txcnt ≠ 255 := by decide

/-- OPEN with the given count and flags. -/
def openedWith (n : Byte) (f : TxFlags) : State := { opened n with txflags := f }

theorem witness_TxEndAcceptsOrRejectsPayload :
    (ready 0).txst ≠ .opened ∧ ((opened 0).txst = .opened ∧ (opened 0).txcnt = 0) ∧
    ((openedWith 255 ⟨false, false, true, false⟩).txst = .opened ∧
      (openedWith 255 ⟨false, false, true, false⟩).txcnt ≠ 0 ∧
      (openedWith 255 ⟨false, false, true, false⟩).txflags.tooLong = true) ∧
    ((openedWith 1 ⟨false, false, false, true⟩).txcnt ≠ 0 ∧
      (openedWith 1 ⟨false, false, false, true⟩).txflags.nonAscii = true) ∧
    ((opened 255).txst = .opened ∧ (opened 255).txcnt ≠ 0 ∧ (opened 255).txflags.tooLong = false ∧
      (opened 255).txflags.nonAscii = false) ∧ (opened 1).txcnt ≠ 0 := by decide

/-- READY with the given length and read index. -/
def readyAt (n : Byte) (i : BitVec 9) : State := { ready i with txcnt := n }

/-- For each clause of R95, its index at the ends of its range, for the shortest and the longest frame. -/
theorem witness_TxPopReturnsNextFrameByte :
    (opened 0).txst ≠ .ready ∧ (readyAt 1 0).txst = .ready ∧
    (readyAt 1 0).txrd.toNat = 0 ∧ (readyAt 1 1).txrd.toNat = 1 ∧ (readyAt 1 2).txrd.toNat = 2 ∧
    (3 ≤ (readyAt 1 3).txrd.toNat ∧ (readyAt 1 3).txrd.toNat ≤ 2 + (readyAt 1 3).txcnt.toNat) ∧
    (3 ≤ (readyAt 255 257).txrd.toNat ∧ (readyAt 255 257).txrd.toNat = 2 + (readyAt 255 257).txcnt.toNat) ∧
    (3 ≤ (readyAt 1 4).txrd.toNat ∧ (readyAt 1 4).txrd.toNat = 3 + (readyAt 1 4).txcnt.toNat) ∧
    (3 ≤ (readyAt 255 258).txrd.toNat ∧ (readyAt 255 258).txrd.toNat = 3 + (readyAt 255 258).txcnt.toNat) ∧
    (3 ≤ (readyAt 1 5).txrd.toNat ∧ (readyAt 1 5).txrd.toNat = 4 + (readyAt 1 5).txcnt.toNat) ∧
    (3 ≤ (readyAt 255 259).txrd.toNat ∧ (readyAt 255 259).txrd.toNat = 4 + (readyAt 255 259).txcnt.toNat) := by decide

theorem witness_SerializerRunMatchesEncode :
    State.reset.txbuf.wf ∧ encodeFrame 0xC0 [0x41] = .ok frameA ∧ encodeFrame 0xC0 [] = .invalidPayload ∧
    encodeFrame 0xC0 [0x80] = .invalidPayload ∧ encodeFrame 0xC0 (List.replicate 256 0x41) = .invalidPayload :=
  ⟨reset_inv.txbuf_wf, encodeFrame_A, by rw [encodeFrame, if_pos (by decide)], by rw [encodeFrame, if_pos (by decide)],
    by rw [encodeFrame, if_pos (.inr (.inl (by rw [List.length_replicate]; decide)))]⟩

theorem witness_ReadyFrameIsEncodedPayload :
    ((ready 0).Inv ∧ (ready 0).txst = .ready) ∧ ((ready 5).Inv ∧ (ready 5).txst = .ready) :=
  ⟨⟨ready_inv.1, rfl⟩, ⟨ready_inv.2, rfl⟩⟩

/-- PAYLOAD with the given count and length. -/
def payloadAt (n len : Byte) : State := { rxIn .atPayload with rxcnt := n, rxlen := len }

theorem witness_RxPushTakesByteByState :
    (rxIn .idle).rxst = .idle ∧ (rxIn .atPrefix).rxst = .atPrefix ∧ (rxIn .atLen).rxst = .atLen ∧
    (rxIn .atOpc).rxst = .atOpc ∧
    ((payloadAt 0 1).rxst = .atPayload ∧ (payloadAt 0 1).rxcnt ≠ 255) ∧
    ((payloadAt 254 255).rxst = .atPayload ∧ (payloadAt 254 255).rxcnt ≠ 255) ∧
    (rxIn .atChk).rxst = .atChk ∧ (rxIn .atSuf).rxst = .atSuf ∧ (accepted 0).rxst = .done := by decide

theorem witness_RxEndMarksShortFrame :
    State.reset.rxst = .idle ∧ (accepted 0).rxst = .done ∧
    ∀ r ∈ [RxSt.atPrefix, .atLen, .atOpc, .atPayload, .atChk, .atSuf], (rxIn r).rxst ≠ .idle ∧ (rxIn r).rxst ≠ .done := by
  decide

/-- Each of the two readings of R154 is a value of ERR_SELECT, and there is no third. -/
theorem witness_RxErrReturnsPrimaryCode : ∀ e : ErrSelect, e = .priority ∨ e = .any := by
  intro e
  cases e <;> decide

theorem witness_AcceptedLengthAndOpcodeReadOut :
    (accepted 0).rxst = .done ∧ (accepted 0).rxflags = RxFlags.clear ∧ rejected.rxflags.badPostfix ≠ false ∧
    State.reset.rxst ≠ .done := by decide

theorem witness_RxPopReturnsNextPayloadByte :
    ((accepted 0).rxst = .done ∧ (accepted 0).rxrd.toNat < (accepted 0).rxlen.toNat) ∧
    ¬ (accepted 1).rxrd.toNat < (accepted 1).rxlen.toNat ∧ rejected.rxflags.badPostfix ≠ false := by decide

theorem witness_DeserializerRunMatchesDecode :
    State.reset.rxbuf.wf ∧ (decodeFrame frameA).valid = true ∧ (decodeFrame []).valid = false :=
  ⟨reset_inv.rxbuf_wf, decodeFrame_A_valid, rfl⟩

theorem witness_AcceptedFrameHoldsAllChecks : (accepted 0).Inv ∧ (accepted 0).rxst = .done ∧
    (accepted 0).rxflags = RxFlags.clear := ⟨accepted_inv.1, rfl, rfl⟩

theorem witness_RoundTripReproducesPayload :
    encodeFrame 0xC0 [0x41] = .ok frameA ∧ State.reset.txbuf.wf ∧ State.reset.rxbuf.wf :=
  ⟨encodeFrame_A, reset_inv.txbuf_wf, reset_inv.rxbuf_wf⟩

/-- The opcode, the payload byte and the checksum of the frame of "A". -/
theorem witness_BodyBitFlipYieldsBadCrc :
    encodeFrame 0xC0 [0x41] = .ok frameA ∧ (2 ≤ 2 ∧ 2 ≤ 3 + [0x41#8].length ∧ 0 < 8) ∧
      (2 ≤ 3 ∧ 3 ≤ 3 + [0x41#8].length ∧ 7 < 8) ∧ (2 ≤ 4 ∧ 4 ≤ 3 + [0x41#8].length ∧ 7 < 8) :=
  ⟨encodeFrame_A, by decide⟩

/-- L = 3: a length that grows, zero, 1 (cut in the payload) and 2 (cut before the last payload byte). -/
theorem witness_LengthCorruptionFlags :
    (∃ f, encodeFrame 0xC0 [0x41, 0x41, 0x41] = .ok f) ∧
    (3 < (0xFF#8).toNat ∧ 3 < (4#8).toNat) ∧ (0#8).toNat ≠ 3 ∧
    ((1#8) ≠ 0 ∧ (1#8).toNat < 3 ∧ (1#8).toNat + 1 < 3) ∧ ((2#8).toNat < 3 ∧ (2#8).toNat + 1 = 3) :=
  ⟨⟨_, encodeFrame_AAA⟩, by decide⟩

theorem xor_one_ne (b : Byte) : b ^^^ 1#8 ≠ b := by
  revert b
  decide

theorem witness_SentinelCorruptionIsReportedAlone :
    encodeFrame 0xC0 [0x41] = .ok frameA ∧ prefixByte ^^^ 1#8 ≠ prefixByte ∧
    suffixByte ^^^ 1#8 ≠ suffixByte :=
  ⟨encodeFrame_A, xor_one_ne _, xor_one_ne _⟩

/-- Each of the eight commands with a state check, refused and permitted. -/
theorem witness_SequenceRaisedExactlyWhenNotPermitted :
    (∀ i ∈ [Instr.txPush 0, .txEnd 0, .txPop 0, .rxPush 0, .rxEnd 0, .rxRdlen 0, .rxRdopc 0, .rxPop 0],
      permitted i State.reset = false) ∧
    permitted (.txPush 0) (opened 0) = true ∧ permitted (.txEnd 0) (opened 0) = true ∧
    permitted (.txPop 0) (ready 0) = true ∧
    (∀ i ∈ [Instr.rxPush 0, .rxEnd 0, .rxRdlen 0, .rxRdopc 0, .rxPop 0], permitted i (accepted 0) = true) ∧
    permitted (.rxPop 0) (accepted 1) = false ∧ ∃ t, exec (.rxPop 0) (accepted 0) = .next t :=
  ⟨by decide, by decide, by decide, by decide, by decide, by decide, ⟨_, rfl⟩⟩

/-- Every flag set. -/
def flagged : State :=
  { accepted 0 with
    txflags := ⟨true, true, true, true⟩, rxflags := ⟨true, true, true, true, true, true⟩, cmdflags := ⟨true, true⟩ }

theorem witness_StickyFlagsClearedOnlyByNamedCommands :
    (∃ t, exec (.txStart 0) flagged = .next t) ∧ (∃ t, exec (.rxStart 0) flagged = .next t) ∧
    (∃ t, exec (.cmdClr 0) flagged = .next t) ∧ (∃ t, exec (.sreset 0) flagged = .next t) ∧
    ∃ t, exec (.rxStat 0) flagged = .next t := ⟨⟨_, rfl⟩, ⟨_, rfl⟩, ⟨_, rfl⟩, ⟨_, rfl⟩, ⟨_, rfl⟩⟩

/-- A run that faults by an illegal word, one by SEQUENCE, and one that does not fault. -/
theorem witness_FaultedRunRaisedSomeCommandError :
    State.reset.cmdflags = ⟨false, false⟩ ∧
    (nextOf (issue [0x7F00] State.reset)).map State.faulted = some true ∧
    (nextOf (issue [0x2300] State.reset)).map State.faulted = some true ∧
    (nextOf (issue [0x1131, 0x1200] State.reset)).map State.faulted = some false ∧
    decode 0x7F00 = .illegal 0x7F ∧ decode 0x2300 = .command (.txPop 0) ∧ permitted (.txPop 0) State.reset = false := by
  decide

theorem witness_UnitCommandsLeaveOtherUnitsAlone :
    (isCrcCommand (.crcFeed 1) = true ∧ ∃ t, exec (.crcFeed 1) State.reset = .next t) ∧
    (isTxCommand (.txPush 1) = true ∧ ∃ t, exec (.txPush 1) (opened 0) = .next t) ∧
    (isRxCommand (.rxPush 1) = true ∧ ∃ t, exec (.rxPush 1) (payloadAt 254 255) = .next t) ∧
    ∃ t, exec (.cmdStat 0) State.reset = .next t :=
  ⟨⟨rfl, _, rfl⟩, ⟨rfl, _, rfl⟩, ⟨rfl, _, rfl⟩, ⟨_, rfl⟩⟩

/-- Two states that agree on the serializer and on nothing else, on the deserializer, and on CRC. -/
theorem witness_UnitsEvolveIndependently :
    sameTx (opened 0) { accepted 0 with txst := .opened, txopc := 0xC0, txcrc := 0xEB, crc := 0x5A } ∧
    sameRx (accepted 0) { accepted 0 with txst := .ready, crc := 0x5A } ∧ (opened 0).crc = (accepted 0).crc ∧
    (∃ t, exec (.txPush 1) (opened 0) = .next t) ∧ ∃ t, exec (.txPush 1) (accepted 0) = .next t :=
  ⟨by simp [sameTx, opened, accepted, State.reset], by simp [sameRx], rfl, ⟨_, rfl⟩, ⟨_, rfl⟩⟩

/-- Each of the seven commands, the two that can be refused also refused. -/
theorem witness_StatusReadsHaveNoSideEffect :
    ((Instr.rxRdlen 0, Instr.rxRdlen 1) ∈ [(Instr.crcRead 0, Instr.crcRead 1), (.txStat 0, .txStat 1),
      (.rxStat 0, .rxStat 1), (.rxErr 0, .rxErr 1), (.rxRdlen 0, .rxRdlen 1), (.rxRdopc 0, .rxRdopc 1),
      (.cmdStat 0, .cmdStat 1)]) ∧
    (∀ i ∈ [Instr.crcRead 0, .txStat 0, .rxStat 0, .rxRdlen 0, .rxRdopc 0, .cmdStat 0],
      (nextOf (exec i (accepted 0))).isSome = true) ∧
    (∃ t, exec (.rxErr 0) (accepted 0) = .next t) ∧ State.reset.rxValid = false ∧
    (∃ t, exec (.rxRdlen 0) State.reset = .next t) ∧ (∃ t, exec (.rxRdopc 0) State.reset = .next t) ∧
    ∃ t, exec (.crcRead 0) State.reset = .next t :=
  ⟨by decide, by decide, ⟨_, rfl⟩, by decide, ⟨_, rfl⟩, ⟨_, rfl⟩, ⟨_, rfl⟩⟩

theorem witness_IgnoredOperandHasNoEffect :
    Instr.code (.txPop 0x00) = Instr.code (.txPop 0xFF) ∧ Instr.code (.txPop 0) ≠ 0x11 ∧ Instr.code (.txPop 0) ≠ 0x20 ∧
    Instr.code (.txPop 0) ≠ 0x21 ∧ Instr.code (.txPop 0) ≠ 0x31 := by decide

theorem witness_TxPushStoresOneEntry :
    (opened 254).txbuf.wf ∧ ((opened 254).txst = .opened ∧ (opened 254).txcnt ≠ 255) ∧
    ((opened 255).txst = .opened ∧ (opened 255).txcnt = 255) ∧ (ready 0).txst ≠ .opened ∧ (ready 0).txbuf.wf ∧
    (∃ t, exec (.txPush 1) (opened 254) = .next t) ∧ (∃ t, exec (.txPush 1) (opened 255) = .next t) ∧
    ∃ t, exec (.txPush 1) (ready 0) = .next t :=
  ⟨by decide, by decide, by decide, by decide, by decide, ⟨_, rfl⟩, ⟨_, rfl⟩, ⟨_, rfl⟩⟩

theorem witness_RxPushStoresOneEntry :
    (payloadAt 254 255).rxbuf.wf ∧ (payloadAt 254 255).rxst = .atPayload ∧ (accepted 0).rxbuf.wf ∧
    (accepted 0).rxst ≠ .atPayload ∧ (∃ t, exec (.rxPush 1) (payloadAt 254 255) = .next t) ∧
    ∃ t, exec (.rxPush 1) (accepted 0) = .next t :=
  ⟨by decide, by decide, by decide, by decide, ⟨_, rfl⟩, ⟨_, rfl⟩⟩

theorem witness_OtherCommandsLeaveBuffersAlone :
    (∃ t, exec (.txPop 0) (ready 0) = .next t) ∧ (∀ d, Instr.txPop 0 ≠ .txPush d) ∧ (∀ d, Instr.txPop 0 ≠ .rxPush d) ∧
    ∀ d, Instr.txPop 0 ≠ .sreset d := ⟨⟨_, rfl⟩, nofun, nofun, nofun⟩

/-- The four kinds of command that R161 speaks of. -/
theorem witness_SimultaneousFlagsOfOneCommand :
    (∃ t, exec (.rxPush 1) (rxIn .atSuf) = .next t) ∧ (∃ t, exec (.txEnd 0) (opened 0) = .next t) ∧
    (∃ t, exec (.txPop 0) (opened 0) = .next t ∧ t.cmdflags.sequence = true) ∧
    ∃ t, exec (.nop 0) flagged = .next t ∧ t.cmdflags.illegal = true :=
  ⟨⟨_, rfl⟩, ⟨_, rfl⟩, ⟨_, rfl, rfl⟩, ⟨_, rfl, rfl⟩⟩

/-- The invariant holds in reset, while a frame is built, read out and received; steps run from there. -/
theorem witness_StepKeepsInvariant :
    State.reset.Inv ∧ (opened 0).Inv ∧ (ready 5).Inv ∧ (accepted 0).Inv ∧ ∃ t, step (ready 5) = .next t :=
  ⟨reset_inv, opened_inv, ready_inv.2, accepted_inv.1, ⟨_, rfl⟩⟩

theorem witness_NoStopUnderInvariant : (accepted 1).Inv := accepted_inv.2

theorem witness_RxPushStopsOnlyAtMissingEntry :
    (payloadAt 255 255).rxst = .atPayload ∧ (payloadAt 255 255).rxcnt = 255 ∧
    exec (.rxPush 0x41) (payloadAt 255 255) = .fault .bufferIndex := ⟨rfl, rfl, rfl⟩

/-- Runs from reset reach READY, IDLE after the last pop, CHK and SUF, the states the clauses of R40 speak of. -/
theorem witness_RunsFromResetKeepBlockInvariants :
    (nextOf (issue [0x20C0, 0x2141, 0x2200] State.reset)).map State.txst = some .ready ∧
    (nextOf (issue [0x3000, 0x31AA, 0x3100, 0x31C0] State.reset)).map State.rxst = some .atChk ∧
    (nextOf (issue [0x3000, 0x31AA, 0x3100, 0x31C0, 0x31EB] State.reset)).map State.rxst = some .atSuf ∧
    State.reset.txst = .idle ∧ State.reset.rxst = .idle := by decide

/-- READY before the payload byte, the host's next word TX_POP; and the same with stale bytes past both frames. -/
def popNext : State := (ready 3).withFetchWord 16 0x2300

def popNextStale : State := { popNext with txbuf := [(0, 0x41), (1, 0x55), (254, 0xAA)], rxbuf := [(7, 0x80)] }

theorem popNext_inv : popNext.Inv ∧ popNextStale.Inv := by
  constructor <;> (constructor <;> decide +kernel)

/-- A waiting block, and one whose step pops a payload byte. -/
theorem witness_StaleBufferBytesAreUnobservable :
    ((opened 0).Inv ∧ openedStale.Inv ∧ sameButStale (opened 0) openedStale ∧ (opened 0).txbuf ≠ openedStale.txbuf ∧
      ∃ t, step (opened 0) = .next t) ∧
    popNext.Inv ∧ popNextStale.Inv ∧ sameButStale popNext popNextStale ∧ popNext.txbuf ≠ popNextStale.txbuf ∧
    ∃ t, step popNext = .next t ∧ t.resps = [⟨true, 0x41⟩] :=
  ⟨⟨opened_inv, openedStale_inv, ⟨rfl, rfl, rfl⟩, by decide, ⟨_, rfl⟩⟩, popNext_inv.1, popNext_inv.2, ⟨rfl, rfl, rfl⟩,
    by decide, ⟨_, rfl, rfl⟩⟩

end Sys2Proof.Tests
end

section
/-! Statements of 00_scope.md: `decode` accepts the inputs that begin with a frame of R13, and a step runs the decoded
command. -/

namespace Sys2Proof.Machine

/-! ## The verdict of `decode` and the valid frame -/

/-- L, the frame's length byte, as a number (R13). -/
def frameLen (f : List Byte) : Nat := (f.getD 1 0).toNat

/-- P, the L bytes after the opcode (R13). -/
def framePayload (f : List Byte) : List Byte := (f.drop 3).take (frameLen f)

/-- The invariants of R13 that speak of byte values; they read the first 5 + L bytes only. How many bytes there are is
said apart, since a valid frame has exactly 5 + L and an accepted input at least that many. -/
def FrameChecks (f : List Byte) : Prop :=
  1 ≤ frameLen f ∧ f.getD 0 0 = prefixByte ∧ f.getD (4 + frameLen f) 0 = suffixByte ∧
    allAscii (framePayload f) = true ∧ f.getD (3 + frameLen f) 0 = crc8 (f.getD 2 0 :: framePayload f)

theorem validFrame_iff (f : List Byte) : validFrame f = true ↔ f.length = 5 + frameLen f ∧ FrameChecks f := by
  simp [validFrame, FrameChecks, frameLen, framePayload, and_assoc]

/-- R111 reads L as 0 from an input without a length byte, and so does the default. -/
theorem decodeFrame_len (inp : List Byte) : (decodeFrame inp).len = inp.getD 1 0 := by
  by_cases h : 2 ≤ inp.length
  · simp [decodeFrame, h]
  · have hnone : inp[1]? = none := List.getElem?_eq_none (by omega)
    simp [decodeFrame, h, hnone]

/-- The verdict is R155's gate: none of the five error flags is set. -/
theorem decodeFrame_valid_iff_anyBad (inp : List Byte) :
    (decodeFrame inp).valid = true ↔ (decodeFrame inp).flags.anyBad = false := by
  rw [← Bool.not_eq_true']; rfl

/-- R111: an input shorter than its frame is BAD_DATASIZE, whatever its bytes. -/
theorem decodeFrame_badDataSize_of_short {inp : List Byte} (h : inp.length < 5 + frameLen inp) :
    (decodeFrame inp).flags.badDataSize = true := by
  have hflag : (decodeFrame inp).flags.badDataSize =
      ((decide (3 ≤ inp.length) && (decodeFrame inp).len == 0) ||
        !decide (5 + (decodeFrame inp).len.toNat ≤ inp.length)) := rfl
  have hshort : ¬ 5 + (inp.getD 1 0).toNat ≤ inp.length := Nat.not_le.mpr h
  rw [hflag, decodeFrame_len, decide_eq_false hshort, Bool.not_false, Bool.or_true]

/-- R111: the flags of an input that holds its whole frame. -/
theorem decodeFrame_flags_of_whole {inp : List Byte} (h : 5 + frameLen inp ≤ inp.length) :
    (decodeFrame inp).flags =
      { badPrefix := inp.getD 0 0 != prefixByte
        badPostfix := inp.getD (4 + frameLen inp) 0 != suffixByte
        badCrc := inp.getD (3 + frameLen inp) 0 != crc8 (inp.getD 2 0 :: framePayload inp)
        badEncoding := !allAscii (framePayload inp)
        badDataSize := inp.getD 1 0 == 0
        extra := decide (5 + frameLen inp < inp.length) } := by
  have h1 : 1 ≤ inp.length := by omega
  have h2 : 2 ≤ inp.length := by omega
  have h3 : 3 ≤ inp.length := by omega
  unfold frameLen at h
  simp only [decodeFrame, framePayload, frameLen, h1, h2, h3, h, if_true, decide_true, Bool.true_and, Bool.not_true,
    Bool.or_false]
  rfl

/-- `decode` accepts an input that holds its whole frame and passes the byte checks of R13, and no other. -/
theorem decodeFrame_valid_iff (inp : List Byte) :
    (decodeFrame inp).valid = true ↔ 5 + frameLen inp ≤ inp.length ∧ FrameChecks inp := by
  by_cases h : 5 + frameLen inp ≤ inp.length
  · have hpos : inp.getD 1 0 ≠ 0 ↔ 1 ≤ frameLen inp := by
      rw [Nat.one_le_iff_ne_zero, ne_eq, BitVec.toNat_eq]; rfl
    rw [decodeFrame_valid_iff_anyBad, RxFlags.anyBad_eq_false, decodeFrame_flags_of_whole h]
    simp only [bne_eq_false_iff_eq, beq_eq_false_iff_ne, Bool.not_eq_false', FrameChecks, hpos, h, true_and]
    tauto
  · have hbad := decodeFrame_badDataSize_of_short (Nat.lt_of_not_le h)
    simp only [decodeFrame_valid_iff_anyBad, RxFlags.anyBad, hbad, h, Bool.or_true, Bool.true_eq_false, false_and]

/-- A byte that stands before the cut is read the same. -/
theorem getD_take_of_lt {i n : Nat} (h : i < n) (bs : List Byte) : (bs.take n).getD i 0 = bs.getD i 0 := by
  simp only [List.getD_eq_getElem?_getD, List.getElem?_take_of_lt h]

/-- Cut after its first 5 + L bytes, an input has the same L. -/
theorem frameLen_take (inp : List Byte) : frameLen (inp.take (5 + frameLen inp)) = frameLen inp :=
  congrArg BitVec.toNat (getD_take_of_lt (by omega) inp)

theorem framePayload_take (inp : List Byte) : framePayload (inp.take (5 + frameLen inp)) = framePayload inp := by
  unfold framePayload
  rw [frameLen_take, List.drop_take, List.take_take, Nat.min_eq_left (by omega)]

/-- The checks of R13 read no byte past the frame. -/
theorem frameChecks_take (inp : List Byte) : FrameChecks (inp.take (5 + frameLen inp)) ↔ FrameChecks inp := by
  have hbyte : ∀ i < 5 + frameLen inp, (inp.take (5 + frameLen inp)).getD i 0 = inp.getD i 0 :=
    fun _ hi => getD_take_of_lt hi inp
  unfold FrameChecks
  rw [frameLen_take, framePayload_take, hbyte 0 (by omega), hbyte 2 (by omega), hbyte (3 + frameLen inp) (by omega),
    hbyte (4 + frameLen inp) (by omega)]

/-- Settles O38: both verdicts are the byte checks of R13, and an input holds its whole frame exactly when the cut after
5 + L bytes leaves that many. -/
theorem acceptedInputBeginsWithValidFrame : Obligations.AcceptedInputBeginsWithValidFrame := by
  intro inp
  change _ ↔ validFrame (inp.take (5 + frameLen inp)) = true
  rw [decodeFrame_valid_iff, validFrame_iff, frameChecks_take, frameLen_take, List.length_take, min_eq_left_iff]

/-! ## A step -/

/-- Settles O5: the step takes the word off the queue, and a word that decodes to a command runs as that command. -/
theorem stepRunsDecodedCommand : Obligations.StepRunsDecodedCommand := by
  intro s w ws i hinput hdecode
  rw [step_cons hinput, runWord_command hdecode]

end Sys2Proof.Machine
end

section
/-! Statements of 10_state.md: the reset values of R38, the invariants of R40 at reset and along every run, and R39's claim
that no response shows what a buffer holds past the current frame. -/

namespace Sys2Proof.Machine

/-! ## Reset -/

/-- Settles O11: the registers are R38's, field by field. -/
theorem powerOnResetValues : Obligations.PowerOnResetValues := by
  unfold Obligations.PowerOnResetValues
  decide

/-- Settles O55: both units are IDLE with nothing read, received or flagged, and both buffers list nothing. -/
theorem resetMeetsInvariant : Obligations.ResetMeetsInvariant := by
  constructor <;> decide

/-! ## What a command word and a step do -/

/-- R156: a command that its rule does not permit answers SEQUENCE. -/
theorem exec_of_not_permitted {i : Instr} {s : State} (hp : permitted i s = false) : exec i s = raiseSequence s := by
  cases i with
  | nop | sreset | cmdStat | cmdClr | crcInit | crcFeed | crcRead | txStart | txStat | rxStart | rxStat | rxErr => cases hp
  | txPush | txEnd | txPop => exact if_pos (by simpa [permitted] using hp)
  | rxPush d =>
    have hst : s.rxst = .idle := by simpa [permitted] using hp
    show execRxPush d s = raiseSequence s
    simp only [execRxPush, hst]
  | rxEnd d =>
    have hst : s.rxst = .idle := by simpa [permitted] using hp
    show execRxEnd s = raiseSequence s
    simp only [execRxEnd, hst]
  | rxRdlen | rxRdopc | rxPop => exact if_neg (by simpa [permitted] using hp)

/-- The converse of `effect_of_exec`: every listed effect is the command's answer. -/
theorem exec_of_effect {i : Instr} {s t : State} (h : Effect s i t) : exec i s = .next t := by
  cases h with
  | nop | sreset | cmdStat | cmdClr | crcInit | crcFeed | crcRead | txStart | txStat | rxStart | rxStat | rxErr => rfl
  | txPushFull d hst hcnt => exact (if_neg (not_not.mpr hst)).trans (if_pos hcnt)
  | txPush d hst hcnt => exact (if_neg (not_not.mpr hst)).trans (if_neg hcnt)
  | txEndReject d hst hbad => exact (if_neg (not_not.mpr hst)).trans (if_pos hbad)
  | txEnd d hst hok => exact (if_neg (not_not.mpr hst)).trans (if_neg (Bool.eq_false_iff.mp hok))
  | txPop d hst => exact if_neg (not_not.mpr hst)
  | rxPushPrefix d hst => show execRxPush d s = rxPushPrefix d s; simp only [execRxPush, hst]
  | rxPushLen d hst => show execRxPush d s = rxPushLen d s; simp only [execRxPush, hst]
  | rxPushOpc d hst => show execRxPush d s = rxPushOpc d s; simp only [execRxPush, hst]
  | rxPushPayload d hst hcnt =>
    have hpush : execRxPush d s = rxPushPayload d s := by simp only [execRxPush, hst]
    exact hpush.trans (if_neg hcnt)
  | rxPushChk d hst => show execRxPush d s = rxPushChk d s; simp only [execRxPush, hst]
  | rxPushSuf d hst => show execRxPush d s = rxPushSuf d s; simp only [execRxPush, hst]
  | rxPushDone d hst => show execRxPush d s = rxPushDone s; simp only [execRxPush, hst]
  | rxEndDone d hst => show execRxEnd s = complete s; simp only [execRxEnd, hst]
  | rxEndShort d hst hst' =>
    show execRxEnd s = _
    unfold execRxEnd
    split
    · contradiction
    · contradiction
    all_goals rfl
  | rxRdlen d hv | rxRdopc d hv => exact if_pos hv
  | rxPop d hv hrd => exact if_pos ⟨hv, hrd⟩
  | sequence i hp => exact exec_of_not_permitted hp

/-- Everything one command word can do: the effect of its command, or R145's. -/
inductive WordEffect (s : State) (w : Word) : State → Prop
  | command {i : Instr} {t : State} (hdec : decode w = .command i) (h : Effect s i t) : WordEffect s w t
  | illegal {c : Byte} (hdec : decode w = .illegal c) :
    WordEffect s w (State.respond { s with cmdflags := { s.cmdflags with illegal := true } } Resp.none)

theorem runWord_next_iff {w : Word} {s t : State} : runWord w s = .next t ↔ WordEffect s w t := by
  constructor
  · intro h
    cases hdec : decode w with
    | command i => exact .command hdec (effect_of_exec ((runWord_command hdec s).symm.trans h))
    | illegal c =>
      rw [runWord_illegal hdec, raiseIllegal_next_iff] at h
      exact h ▸ .illegal hdec
  · rintro (⟨hdec, h⟩ | hdec)
    · exact (runWord_command hdec s).trans (exec_of_effect h)
    · exact runWord_illegal hdec s

/-- No command word touches the queue behind it. -/
theorem WordEffect.input_eq {w : Word} {s t : State} (h : WordEffect s w t) : t.input = s.input := by
  cases h with
  | command hdec h => exact exec_input (exec_of_effect h)
  | illegal hdec => rfl

/-- The block waits, or it takes the host's next word and runs it. -/
theorem step_next_iff {s t : State} :
    step s = .next t ↔
      s.input = [] ∧ t = s ∨ ∃ w ws, s.input = w :: ws ∧ WordEffect (s.setInput ws) w t := by
  cases hin : s.input with
  | nil => simp [step, fetch_nil hin, eq_comm]
  | cons w ws =>
    rw [step_cons hin]
    refine runWord_next_iff.trans ⟨fun h => .inr ⟨w, ws, rfl, h⟩, ?_⟩
    rintro (⟨hnil, -⟩ | ⟨w', ws', hcons, h⟩)
    · cases hnil
    · cases hcons
      exact h

/-! ## Every command keeps the invariant

The record `{ h with … }` names the items of `State.Inv` that a command gives a reason to look at again; the others speak
of registers that the command leaves alone. -/

section Keeps
variable {s t : State} {d : Byte}

/-- A count below 255 does not wrap. -/
theorem toNat_add_one_of_ne {c : Byte} (h : c ≠ 255) : (c + 1).toNat = c.toNat + 1 := by bv_omega

/-- The CRC of an opcode alone, as TX_START and RX_PUSH in OPC store it (R23, R32). -/
theorem crcStep_opcode (o : Byte) (m : Memory) : crcStep Config.crcInit o = crc8 (o :: m.slice 0) := by
  rw [Memory.slice_zero, crc8_single]

/-- R23, R32: the CRC of the opcode and the payload so far goes on over the byte stored next. -/
theorem crcStep_slice_write {m : Memory} (hm : m.wf) (o : Byte) (n : Nat) (d : Byte) :
    crcStep (crc8 (o :: m.slice n)) d = crc8 (o :: (m.write n d).slice (n + 1)) := by
  rw [Memory.slice_write hm, ← List.cons_append, crc8_append_single]

/-- NONASCII and BAD_ENCODING gather the payload byte stored next. -/
theorem not_allAscii_slice_write {m : Memory} (hm : m.wf) (n : Nat) (d : Byte) :
    (!allAscii ((m.write n d).slice (n + 1))) = (!allAscii (m.slice n) || !isAscii d) := by
  rw [Memory.slice_write hm, allAscii_append, Bool.not_and, allAscii_cons, allAscii_nil, Bool.and_true]

/-- A payload buffer keeps its canonical form when the entry of an 8-bit count below 255 is written. -/
theorem write_count_wf {m : Memory} (hm : m.wf) {c : Byte} (hc : c ≠ 255) (d : Byte) : (m.write c.toNat d).wf :=
  Memory.write_wf hm d (by simp only [Config.bufferSize]; bv_omega)

theorem TxFlags.eq_clear {f : TxFlags} (hi : f.invalidPayload = false) (he : f.empty = false)
    (ht : f.tooLong = false) (hn : f.nonAscii = false) : f = TxFlags.clear := by
  cases f
  simp_all [TxFlags.clear]

theorem txStart_keeps_inv (h : s.Inv) (he : Effect s (.txStart d) t) : t.Inv := by
  cases he with
  | sequence _ hp => cases hp
  | txStart =>
    exact { h with
      tx_opened := fun _ => ⟨rfl, rfl, rfl⟩
      tx_tooLong := nofun
      tx_nonAscii := fun _ => rfl
      r23 := fun _ => crcStep_opcode d s.txbuf
      r40b := nofun
      r40c := nofun }

theorem txPush_keeps_inv (h : s.Inv) (he : Effect s (.txPush d) t) : t.Inv := by
  cases he with
  | sequence => exact { h with }
  | txPushFull _ hst hcnt =>
    exact { h with
      tx_tooLong := fun _ => hcnt
      r40b := fun hready => nomatch hst.symm.trans hready }
  | txPush _ hst hcnt =>
    have hbusy : s.txst ≠ .idle := by simp [hst]
    have hsucc := toNat_add_one_of_ne hcnt
    exact { h with
      txbuf_wf := write_count_wf h.txbuf_wf hcnt d
      tx_tooLong := fun htl => absurd (h.tx_tooLong htl) hcnt
      tx_nonAscii := fun _ => by
        simp only [State.respond_txflags, State.respond_txbuf, State.respond_txcnt, hsucc,
          not_allAscii_slice_write h.txbuf_wf, h.tx_nonAscii hbusy]
      r23 := fun _ => by
        simp only [State.respond_txcrc, State.respond_txopc, State.respond_txbuf, State.respond_txcnt, hsucc,
          ← crcStep_slice_write h.txbuf_wf, h.r23 hbusy]
      r40b := fun hready => nomatch hst.symm.trans hready
      r40c := fun hidle => absurd hidle hbusy }

theorem txEnd_keeps_inv (h : s.Inv) (he : Effect s (.txEnd d) t) : t.Inv := by
  cases he with
  | sequence => exact { h with }
  | txEndReject _ hst _ =>
    obtain ⟨hrd, -, -⟩ := h.tx_opened hst
    exact { h with
      tx_opened := nofun
      tx_nonAscii := fun hbusy => absurd rfl hbusy
      r23 := fun hbusy => absurd rfl hbusy
      r40b := nofun
      r40c := fun _ => .inl (congrArg BitVec.toNat hrd) }
  | txEnd _ hst hok =>
    have hbusy : s.txst ≠ .idle := by simp [hst]
    obtain ⟨-, hinv, hempty⟩ := h.tx_opened hst
    simp only [Bool.or_eq_false_iff, beq_eq_false_iff_ne] at hok
    obtain ⟨⟨hcnt, htl⟩, hna⟩ := hok
    have hpos : 1 ≤ s.txcnt.toNat := by bv_omega
    exact { h with
      tx_opened := nofun
      tx_nonAscii := fun _ => h.tx_nonAscii hbusy
      r23 := fun _ => h.r23 hbusy
      r40b := fun _ => ⟨Nat.add_pos_left (by decide) _, hpos, TxFlags.eq_clear hinv hempty htl hna⟩
      r40c := nofun }

/-- TX_POP: TXRD reaches 5 + TXCNT exactly when the frame is read out, and READY lasts until then. -/
theorem txPop_keeps_inv (h : s.Inv) (he : Effect s (.txPop d) t) : t.Inv := by
  cases he with
  | sequence => exact { h with }
  | txPop _ hst =>
    have hbusy : s.txst ≠ .idle := by simp [hst]
    obtain ⟨hrd, hcnt, hclear⟩ := h.r40b hst
    have hsucc : (s.txrd + 1).toNat = s.txrd.toNat + 1 := by bv_omega
    exact { h with
      tx_opened := by simp [hst, ite_eq_iff]
      tx_nonAscii := fun _ => h.tx_nonAscii hbusy
      r23 := fun _ => h.r23 hbusy
      r40b := by
        simp only [State.respond_txst, State.respond_txrd, State.respond_txcnt, State.respond_txflags, hsucc]
        split_ifs with hlast
        · exact nofun
        · exact fun _ => ⟨by omega, hcnt, hclear⟩
      r40c := by
        simp only [State.respond_txst, State.respond_txrd, State.respond_txcnt, hsucc]
        split_ifs with hlast
        · exact fun _ => .inr hlast
        · exact fun hidle => absurd hidle hbusy }

theorem rxStart_keeps_inv (h : s.Inv) (he : Effect s (.rxStart d) t) : t.Inv := by
  cases he with
  | sequence _ hp => cases hp
  | rxStart =>
    exact { h with
      r40d := Nat.le_refl 0
      r40e := fun _ => rfl
      r40f := nofun
      r40g := Nat.le_refl 0
      rx_unread := fun _ => rfl
      rx_header := fun _ => rfl
      rx_payload := nofun
      rx_zeroLen := by simp
      r32 := by simp
      rx_encoding := rfl
      rx_accepted := nofun }

theorem rxPush_keeps_inv (h : s.Inv) (he : Effect s (.rxPush d) t) : t.Inv := by
  cases he with
  | sequence => exact { h with }
  | rxPushPrefix _ hst =>
    have hrd := h.rx_unread (by simp [hst])
    exact { h with
      r40e := by simp
      r40f := nofun
      rx_unread := fun _ => hrd
      rx_header := fun _ => h.rx_header (.inl hst)
      rx_payload := nofun
      rx_zeroLen := by simp
      r32 := by simp
      rx_accepted := nofun }
  | rxPushLen _ hst =>
    have hrd := h.rx_unread (by simp [hst])
    have hcnt := h.rx_header (.inr (.inl hst))
    exact { h with
      r40d := by simp [hcnt]
      r40e := by simp
      r40f := nofun
      r40g := by simp [hrd]
      rx_unread := fun _ => hrd
      rx_header := fun _ => hcnt
      rx_payload := nofun
      rx_zeroLen := by simp
      r32 := by simp
      rx_accepted := nofun }
  | rxPushOpc _ hst =>
    have hrd := h.rx_unread (by simp [hst])
    have hcnt := h.rx_header (.inr (.inr hst))
    exact { h with
      r40e := by
        simp only [State.respond_rxst, State.respond_rxcnt, State.respond_rxlen]
        split_ifs with hlen
        · exact fun _ => hcnt.trans hlen.symm
        · simp
      r40f := by simp [ite_eq_iff]
      rx_unread := fun _ => hrd
      rx_header := fun _ => hcnt
      rx_payload := by
        simp only [State.respond_rxst, State.respond_rxcnt, State.respond_rxlen, hcnt]
        split_ifs with hlen
        · exact nofun
        · exact fun _ => by bv_omega
      rx_zeroLen := fun _ hlen => by simp [show s.rxlen = 0 from hlen]
      r32 := fun _ => by
        simp only [State.respond_rxcrc, State.respond_rxopc, State.respond_rxbuf, State.respond_rxcnt, hcnt]
        exact crcStep_opcode d s.rxbuf
      rx_accepted := by simp [ite_eq_iff] }
  | rxPushPayload _ hst hcnt =>
    have hrd := h.rx_unread (by simp [hst])
    have hlt := h.rx_payload hst
    have hsucc := toNat_add_one_of_ne hcnt
    exact { h with
      rxbuf_wf := write_count_wf h.rxbuf_wf hcnt d
      r40d := by simp only [State.respond_rxcnt, State.respond_rxlen, hsucc]; exact hlt
      r40e := by
        simp only [State.respond_rxst, State.respond_rxcnt, State.respond_rxlen]
        split_ifs with hlast
        · exact fun _ => BitVec.eq_of_toNat_eq (hsucc.trans hlast)
        · simp
      r40f := by simp [ite_eq_iff]
      rx_unread := fun _ => hrd
      rx_header := by simp [ite_eq_iff]
      rx_payload := by
        simp only [State.respond_rxst, State.respond_rxcnt, State.respond_rxlen, hsucc]
        split_ifs with hlast
        · exact nofun
        · exact fun _ => Nat.lt_of_le_of_ne hlt hlast
      rx_zeroLen := fun _ => h.rx_zeroLen (.inl hst)
      r32 := fun _ => by
        simp only [State.respond_rxcrc, State.respond_rxopc, State.respond_rxbuf, State.respond_rxcnt, hsucc,
          ← crcStep_slice_write h.rxbuf_wf, h.r32 (.inl hst)]
      rx_encoding := by
        simp only [State.respond_rxflags, State.respond_rxbuf, State.respond_rxcnt, hsucc,
          not_allAscii_slice_write h.rxbuf_wf, h.rx_encoding]
      rx_accepted := by simp [ite_eq_iff] }
  | rxPushChk _ hst =>
    have hrd := h.rx_unread (by simp [hst])
    exact { h with
      r40e := fun _ => h.r40e (.inl hst)
      r40f := nofun
      rx_unread := fun _ => hrd
      rx_header := by simp
      rx_payload := nofun
      rx_zeroLen := fun _ => h.rx_zeroLen (.inr (.inl hst))
      r32 := fun _ => h.r32 (.inr (.inl hst))
      rx_accepted := nofun }
  | rxPushSuf _ hst =>
    exact { h with
      r40e := by simp
      r40f := nofun
      rx_unread := fun hne => absurd rfl hne
      rx_header := by simp
      rx_payload := nofun
      rx_zeroLen := fun _ => h.rx_zeroLen (.inr (.inr (.inl hst)))
      r32 := by simp
      rx_accepted := fun _ _ => ⟨h.r40e (.inr hst), h.r32 (.inr (.inr hst)), by simp⟩ }
  | rxPushDone _ hst =>
    exact { h with r40f := fun hidle => nomatch hst.symm.trans hidle }

/-- RX_END: a frame cut short is on record as such, so nothing is claimed of its checksum. -/
theorem rxEnd_keeps_inv (h : s.Inv) (he : Effect s (.rxEnd d) t) : t.Inv := by
  cases he with
  | sequence => exact { h with }
  | rxEndDone => exact { h with }
  | rxEndShort =>
    exact { h with
      r40e := by simp
      r40f := nofun
      rx_unread := fun hne => absurd rfl hne
      rx_header := by simp
      rx_payload := nofun
      rx_zeroLen := fun _ _ => rfl
      r32 := by simp
      rx_accepted := nofun }

theorem rxPop_keeps_inv (h : s.Inv) (he : Effect s (.rxPop d) t) : t.Inv := by
  cases he with
  | sequence => exact { h with }
  | rxPop _ hv hrd =>
    obtain ⟨hdone, -⟩ := State.rxValid_iff.mp hv
    exact { h with
      r40f := fun hidle => nomatch hdone.symm.trans hidle
      r40g := by
        show (s.rxrd + 1).toNat ≤ s.rxlen.toNat
        bv_omega
      rx_unread := fun hne => absurd hdone hne }

/-- Every command keeps the invariant; those of the last case change no register that it speaks of. -/
theorem effect_keeps_inv {i : Instr} (h : s.Inv) (he : Effect s i t) : t.Inv := by
  cases i with
  | sreset =>
    cases he with
    | sequence => exact { h with }
    | sreset => exact { resetMeetsInvariant with }
  | txStart => exact txStart_keeps_inv h he
  | txPush => exact txPush_keeps_inv h he
  | txEnd => exact txEnd_keeps_inv h he
  | txPop => exact txPop_keeps_inv h he
  | rxStart => exact rxStart_keeps_inv h he
  | rxPush => exact rxPush_keeps_inv h he
  | rxEnd => exact rxEnd_keeps_inv h he
  | rxPop => exact rxPop_keeps_inv h he
  | nop | cmdStat | cmdClr | crcInit | crcFeed | crcRead | txStat | rxStat | rxErr | rxRdlen | rxRdopc =>
    cases he <;> exact { h with }

theorem setInput_inv (h : s.Inv) (q : List Word) : (s.setInput q).Inv := { h with }

theorem wordEffect_keeps_inv {w : Word} (h : s.Inv) (he : WordEffect s w t) : t.Inv := by
  cases he with
  | command _ he => exact effect_keeps_inv h he
  | illegal => exact { h with }

end Keeps

/-- Settles O56: a waiting step changes nothing, and every command word keeps the invariant. -/
theorem stepKeepsInvariant : Obligations.StepKeepsInvariant := by
  intro s t h hstep
  obtain ⟨-, rfl⟩ | ⟨w, ws, -, he⟩ := step_next_iff.mp hstep
  · exact h
  · exact wordEffect_keeps_inv (setInput_inv h ws) he

/-! ## Runs from reset -/

/-- The command answers a next state. -/
def Completes (o : Outcome) : Prop := ∃ t, o = .next t

theorem completes_next (t : State) : Completes (.next t) := ⟨t, rfl⟩

theorem completes_ite {c : Prop} [Decidable c] {a b : Outcome} (ha : Completes a) (hb : Completes b) :
    Completes (if c then a else b) := by split <;> assumption

/-- Every command completes, except RX_PUSH at the payload entry that does not exist (R30). -/
theorem exec_completes (i : Instr) {s : State} (h : s.rxst = .atPayload → s.rxcnt ≠ 255) : Completes (exec i s) := by
  have hn := completes_next
  cases i with
  | nop | sreset | cmdStat | cmdClr | crcInit | crcFeed | crcRead | txStart | txStat | rxStart | rxStat | rxErr =>
    exact hn _
  | txPush | txEnd => exact completes_ite (hn _) (completes_ite (hn _) (hn _))
  | txPop | rxRdlen | rxRdopc | rxPop => exact completes_ite (hn _) (hn _)
  | rxPush d =>
    show Completes (execRxPush d s)
    unfold execRxPush
    cases hst : s.rxst with
    | atPayload =>
      show Completes (rxPushPayload d s)
      rw [rxPushPayload, if_neg (h hst)]
      exact hn _
    | idle | atPrefix | atLen | atOpc | atChk | atSuf | done => exact hn _
  | rxEnd d =>
    show Completes (execRxEnd s)
    unfold execRxEnd
    cases s.rxst <;> exact hn _

/-- R46: below RXLEN there is an entry of RXBUF, so every command word runs to a next state. -/
theorem runWord_completes_of_inv (w : Word) {s : State} (h : s.Inv) : Completes (runWord w s) := by
  cases hdec : decode w with
  | command i =>
    rw [runWord_command hdec]
    refine exec_completes i fun hst => ?_
    have hlt := h.rx_payload hst
    bv_omega
  | illegal c =>
    rw [runWord_illegal hdec]
    exact completes_next _

/-- Every run from a state that meets the invariant completes in one that does. -/
theorem issue_keeps_inv (ws : List Word) {s : State} (h : s.Inv) : ∃ t, issue ws s = .next t ∧ t.Inv := by
  induction ws generalizing s with
  | nil => exact ⟨_, issue_nil s, setInput_inv h []⟩
  | cons w ws ih =>
    obtain ⟨t, ht⟩ := runWord_completes_of_inv w (setInput_inv h ws)
    have he := runWord_next_iff.mp ht
    rw [issue_cons ht he.input_eq]
    exact ih (wordEffect_keeps_inv (setInput_inv h ws) he)

/-- Settles O59: reset meets the invariant, so the run's end does, and (b) to (g) are items of it; (a) is TXCNT's width. -/
theorem runsFromResetKeepBlockInvariants : Obligations.RunsFromResetKeepBlockInvariants := by
  intro ws
  obtain ⟨t, hrun, h⟩ := issue_keeps_inv ws resetMeetsInvariant
  exact ⟨t, hrun, Nat.le_of_lt_succ t.txcnt.isLt, h.r40b, h.r40c, h.r40d, h.r40e, h.r40f, h.r40g⟩

/-! ## Stale buffer bytes -/

/-- The same registers with other buffers. -/
def State.setBuffers (s : State) (tb rb : Memory) : State := { s with txbuf := tb, rxbuf := rb }

/-- The buffers hold the payload bytes of the frames that `s` has begun. -/
def State.HoldsFrames (s : State) (tb rb : Memory) : Prop :=
  s.txbuf.slice s.txcnt.toNat = tb.slice s.txcnt.toNat ∧ s.rxbuf.slice s.rxcnt.toNat = rb.slice s.rxcnt.toNat

theorem sameButStale_iff {s t : State} :
    sameButStale s t ↔ ∃ tb rb, t = s.setBuffers tb rb ∧ s.HoldsFrames tb rb := by
  constructor
  · rintro ⟨ht, htx, hrx⟩
    exact ⟨t.txbuf, t.rxbuf, ht, htx, hrx⟩
  · rintro ⟨tb, rb, rfl, htx, hrx⟩
    exact ⟨rfl, htx, hrx⟩

section Stale
variable {s s' : State} {tb rb : Memory} {i : Instr}

/-- TX_POP reads TXBUF at payload indices only (R95). -/
theorem txByte_setBuffers (hb : s.HoldsFrames tb rb) (i : Nat) : txByte (s.setBuffers tb rb) i = txByte s i := by
  obtain ⟨htx, -⟩ := hb
  have hread := Memory.slice_eq_iff.mp htx
  unfold txByte State.setBuffers
  dsimp only
  split_ifs with hprefix hlen hopc hpayload
  · rfl
  · rfl
  · rfl
  · exact (hread _ (by omega)).symm
  all_goals rfl

/-- RX_POP reads RXBUF at payload indices only: an accepted frame is complete (R121). -/
theorem rxRead_setBuffers (h : s.Inv) (hb : s.HoldsFrames tb rb) (hv : s.rxValid = true)
    (hrd : s.rxrd.toNat < s.rxlen.toNat) : rb.read s.rxrd.toNat = s.rxbuf.read s.rxrd.toNat := by
  obtain ⟨-, hrx⟩ := hb
  obtain ⟨hdone, hgood⟩ := State.rxValid_iff.mp hv
  obtain ⟨-, -, -, -, hsize⟩ := RxFlags.anyBad_eq_false.mp hgood
  obtain ⟨hcnt, -, -⟩ := h.rx_accepted hdone hsize
  exact (Memory.slice_eq_iff.mp hrx _ (hcnt ▸ hrd)).symm

/-- R39: a command has the same effect on a state whose buffers differ past the current frames, and leaves buffers that
again differ only there: a push stores the same byte in both, a new frame has no byte yet. -/
theorem effect_setBuffers (h : s.Inv) (ht : (s.setBuffers tb rb).Inv) (hb : s.HoldsFrames tb rb) (he : Effect s i s') :
    ∃ tb' rb', Effect (s.setBuffers tb rb) i (s'.setBuffers tb' rb') ∧ s'.HoldsFrames tb' rb' := by
  have ⟨htx, hrx⟩ := hb
  cases he with
  | nop d => exact ⟨tb, rb, .nop d, hb⟩
  | sreset d => exact ⟨_, _, .sreset d, rfl, rfl⟩
  | cmdStat d => exact ⟨tb, rb, .cmdStat d, hb⟩
  | cmdClr d => exact ⟨tb, rb, .cmdClr d, hb⟩
  | crcInit d => exact ⟨tb, rb, .crcInit d, hb⟩
  | crcFeed d => exact ⟨tb, rb, .crcFeed d, hb⟩
  | crcRead d => exact ⟨tb, rb, .crcRead d, hb⟩
  | txStart d => exact ⟨tb, rb, .txStart d, rfl, hrx⟩
  | txPushFull d hst hcnt => exact ⟨tb, rb, .txPushFull d hst hcnt, hb⟩
  | txPush d hst hcnt =>
    refine ⟨tb.write s.txcnt.toNat d, rb, .txPush d hst hcnt, ?_, hrx⟩
    simp only [State.respond_txbuf, State.respond_txcnt, toNat_add_one_of_ne hcnt, Memory.slice_write h.txbuf_wf,
      Memory.slice_write (m := tb) ht.txbuf_wf, htx]
  | txEndReject d hst hbad => exact ⟨tb, rb, .txEndReject d hst hbad, hb⟩
  | txEnd d hst hok => exact ⟨tb, rb, .txEnd d hst hok, hb⟩
  | txPop d hst => exact ⟨tb, rb, txByte_setBuffers hb s.txrd.toNat ▸ .txPop d hst, hb⟩
  | txStat d => exact ⟨tb, rb, .txStat d, hb⟩
  | rxStart d => exact ⟨tb, rb, .rxStart d, htx, rfl⟩
  | rxPushPrefix d hst => exact ⟨tb, rb, .rxPushPrefix d hst, hb⟩
  | rxPushLen d hst => exact ⟨tb, rb, .rxPushLen d hst, hb⟩
  | rxPushOpc d hst => exact ⟨tb, rb, .rxPushOpc d hst, hb⟩
  | rxPushPayload d hst hcnt =>
    refine ⟨tb, rb.write s.rxcnt.toNat d, .rxPushPayload d hst hcnt, htx, ?_⟩
    simp only [State.respond_rxbuf, State.respond_rxcnt, toNat_add_one_of_ne hcnt, Memory.slice_write h.rxbuf_wf,
      Memory.slice_write (m := rb) ht.rxbuf_wf, hrx]
  | rxPushChk d hst => exact ⟨tb, rb, .rxPushChk d hst, hb⟩
  | rxPushSuf d hst => exact ⟨tb, rb, .rxPushSuf d hst, hb⟩
  | rxPushDone d hst => exact ⟨tb, rb, .rxPushDone d hst, hb⟩
  | rxEndDone d hst => exact ⟨tb, rb, .rxEndDone d hst, hb⟩
  | rxEndShort d hst hst' => exact ⟨tb, rb, .rxEndShort d hst hst', hb⟩
  | rxStat d => exact ⟨tb, rb, .rxStat d, hb⟩
  | rxErr d => exact ⟨tb, rb, .rxErr d, hb⟩
  | rxRdlen d hv => exact ⟨tb, rb, .rxRdlen d hv, hb⟩
  | rxRdopc d hv => exact ⟨tb, rb, .rxRdopc d hv, hb⟩
  | rxPop d hv hrd => exact ⟨tb, rb, rxRead_setBuffers h hb hv hrd ▸ .rxPop d hv hrd, hb⟩
  | sequence i hp => exact ⟨tb, rb, .sequence i hp, hb⟩

theorem wordEffect_setBuffers {w : Word} (h : s.Inv) (ht : (s.setBuffers tb rb).Inv) (hb : s.HoldsFrames tb rb)
    (he : WordEffect s w s') :
    ∃ tb' rb', WordEffect (s.setBuffers tb rb) w (s'.setBuffers tb' rb') ∧ s'.HoldsFrames tb' rb' := by
  cases he with
  | command hdec he =>
    obtain ⟨tb', rb', he', hb'⟩ := effect_setBuffers h ht hb he
    exact ⟨tb', rb', .command hdec he', hb'⟩
  | illegal hdec => exact ⟨tb, rb, .illegal hdec, hb⟩

end Stale

/-- Settles O60: whatever the host's next word, the step of one state is a step of the other, but for the buffers. -/
theorem staleBufferBytesAreUnobservable : Obligations.StaleBufferBytesAreUnobservable := by
  intro s t s' hs ht hst hstep
  obtain ⟨tb, rb, rfl, hb⟩ := sameButStale_iff.mp hst
  obtain ⟨hnil, rfl⟩ | ⟨w, ws, hin, he⟩ := step_next_iff.mp hstep
  · exact ⟨_, step_next_iff.mpr (.inl ⟨hnil, rfl⟩), hst, rfl⟩
  · obtain ⟨tb', rb', he', hb'⟩ := wordEffect_setBuffers (setInput_inv hs ws) (setInput_inv ht ws) hb he
    exact ⟨_, step_next_iff.mpr (.inr ⟨w, ws, hin, he'⟩), sameButStale_iff.mpr ⟨tb', rb', rfl, hb'⟩, rfl⟩

end Sys2Proof.Machine
end

section
/-! Statements of 20_memory.md: which command may store to which buffer entry, where the one stop of the model is, what a
unit's commands leave alone, and the reads without a side effect. -/

namespace Sys2Proof.Machine

/-! ## The one stop -/

/-- A command other than RX_PUSH has no branch that stops. -/
theorem exec_completes_of_ne_rxPush {i : Instr} (hi : ∀ d, i ≠ .rxPush d) (s : State) : Completes (exec i s) := by
  have hn := completes_next
  cases i with
  | nop | sreset | cmdStat | cmdClr | crcInit | crcFeed | crcRead | txStart | txStat | rxStart | rxStat | rxErr =>
    exact hn _
  | txPush | txEnd => exact completes_ite (hn _) (completes_ite (hn _) (hn _))
  | txPop | rxRdlen | rxRdopc | rxPop => exact completes_ite (hn _) (hn _)
  | rxPush d => exact absurd rfl (hi d)
  | rxEnd d =>
    show Completes (execRxEnd s)
    unfold execRxEnd
    cases s.rxst <;> exact hn _

/-- The command would store to RXBUF[255], the entry that does not exist (R30; log 11). -/
def NeedsMissingEntry (i : Instr) (s : State) : Prop := (∃ d, i = .rxPush d) ∧ s.rxst = .atPayload ∧ s.rxcnt = 255

theorem exec_of_needsMissingEntry {i : Instr} {s : State} (h : NeedsMissingEntry i s) :
    exec i s = .fault .bufferIndex := by
  obtain ⟨⟨d, rfl⟩, hst, hcnt⟩ := h
  have hpush : execRxPush d s = rxPushPayload d s := by simp only [execRxPush, hst]
  exact hpush.trans (if_pos hcnt)

theorem exec_completes_of_not_needsMissingEntry {i : Instr} {s : State} (h : ¬ NeedsMissingEntry i s) :
    Completes (exec i s) := by
  by_cases hpush : ∃ d, i = .rxPush d
  · exact exec_completes i fun hst hcnt => h ⟨hpush, hst, hcnt⟩
  · exact exec_completes_of_ne_rxPush (not_exists.mp hpush) s

/-- Settles O58: a command that needs the missing entry stops there, and every other one answers a next state. -/
theorem rxPushStopsOnlyAtMissingEntry : Obligations.RxPushStopsOnlyAtMissingEntry := by
  intro i s
  change (_ ↔ NeedsMissingEntry i s) ∧ _
  by_cases h : NeedsMissingEntry i s
  · simp [exec_of_needsMissingEntry h, h]
  · obtain ⟨t, ht⟩ := exec_completes_of_not_needsMissingEntry h
    simp [ht, h]

/-- Settles O57: a waiting step answers its own state, and under the invariant every command word completes. -/
theorem noStopUnderInvariant : Obligations.NoStopUnderInvariant := by
  intro s h
  cases hin : s.input with
  | nil => exact ⟨s, step_next_iff.mpr (.inl ⟨hin, rfl⟩)⟩
  | cons w ws =>
    rw [step_cons hin]
    exact runWord_completes_of_inv w (setInput_inv h ws)

/-! ## What a unit's commands leave alone -/

section Frame
variable {s t : State} {i : Instr} {d : Byte}

/-- R47: CRC is written by the CRC unit's commands and by SRESET only. -/
theorem Effect.crc_eq (he : Effect s i t) (hunit : isCrcCommand i = false) (hreset : ∀ d, i ≠ .sreset d) :
    s.crc = t.crc := by
  cases i with
  | crcInit | crcFeed | crcRead => cases hunit
  | sreset d => exact absurd rfl (hreset d)
  | nop | cmdStat | cmdClr | txStart | txPush | txEnd | txPop | txStat | rxStart | rxPush | rxEnd | rxStat | rxErr
  | rxRdlen | rxRdopc | rxPop =>
    cases he <;> rfl

/-- R47: the serializer is written by its own commands and by SRESET only. -/
theorem Effect.sameTx (he : Effect s i t) (hunit : isTxCommand i = false) (hreset : ∀ d, i ≠ .sreset d) :
    sameTx s t := by
  cases i with
  | txStart | txPush | txEnd | txPop | txStat => cases hunit
  | sreset d => exact absurd rfl (hreset d)
  | nop | cmdStat | cmdClr | crcInit | crcFeed | crcRead | rxStart | rxPush | rxEnd | rxStat | rxErr | rxRdlen
  | rxRdopc | rxPop =>
    cases he <;> exact ⟨rfl, rfl, rfl, rfl, rfl, rfl, rfl⟩

/-- R47: the deserializer is written by its own commands and by SRESET only. -/
theorem Effect.sameRx (he : Effect s i t) (hunit : isRxCommand i = false) (hreset : ∀ d, i ≠ .sreset d) :
    sameRx s t := by
  cases i with
  | rxStart | rxPush | rxEnd | rxStat | rxErr | rxRdlen | rxRdopc | rxPop => cases hunit
  | sreset d => exact absurd rfl (hreset d)
  | nop | cmdStat | cmdClr | crcInit | crcFeed | crcRead | txStart | txPush | txEnd | txPop | txStat =>
    cases he <;> exact ⟨rfl, rfl, rfl, rfl, rfl, rfl, rfl, rfl, rfl⟩

/-- R156: CMDSTAT changes by the refusal of a command, by CMD_CLR and by SRESET only. -/
theorem Effect.cmdflags_eq (he : Effect s i t) (hp : permitted i s = true) (hclr : ∀ d, i ≠ .cmdClr d)
    (hreset : ∀ d, i ≠ .sreset d) : t.cmdflags = s.cmdflags := by
  cases he with
  | cmdClr d => exact absurd rfl (hclr d)
  | sreset d => exact absurd rfl (hreset d)
  | sequence _ hnot => exact nomatch hp.symm.trans hnot
  | _ => rfl

end Frame

/-- Settles O47: what a unit's commands leave alone, by the unit. -/
theorem unitCommandsLeaveOtherUnitsAlone : Obligations.UnitCommandsLeaveOtherUnitsAlone := by
  intro i s t h
  have he := effect_of_exec h
  cases i with
  | crcInit | crcFeed | crcRead =>
    exact ⟨fun _ => ⟨he.sameTx rfl nofun, he.sameRx rfl nofun, he.cmdflags_eq rfl nofun nofun⟩, nofun, nofun, by simp⟩
  | txStart | txPush | txEnd | txPop | txStat =>
    exact ⟨nofun, fun _ => ⟨he.crc_eq rfl nofun, he.sameRx rfl nofun⟩, nofun, by simp⟩
  | rxStart | rxPush | rxEnd | rxStat | rxErr | rxRdlen | rxRdopc | rxPop =>
    exact ⟨nofun, nofun, fun _ => ⟨he.crc_eq rfl nofun, he.sameTx rfl nofun⟩, by simp⟩
  | nop | cmdStat | cmdClr =>
    exact ⟨nofun, nofun, nofun, fun _ => ⟨he.crc_eq rfl nofun, he.sameTx rfl nofun, he.sameRx rfl nofun⟩⟩
  | sreset => exact ⟨nofun, nofun, nofun, by simp⟩

/-! ## Stores to the buffers -/

section Stores
variable {s t : State} {i : Instr} {d : Byte}

/-- R46: only TX_PUSH and SRESET write TXBUF. -/
theorem Effect.txbuf_eq (he : Effect s i t) (hpush : ∀ d, i ≠ .txPush d) (hreset : ∀ d, i ≠ .sreset d) :
    t.txbuf = s.txbuf := by
  cases he with
  | txPush d => exact absurd rfl (hpush d)
  | sreset d => exact absurd rfl (hreset d)
  | _ => rfl

/-- R46: only RX_PUSH and SRESET write RXBUF. -/
theorem Effect.rxbuf_eq (he : Effect s i t) (hpush : ∀ d, i ≠ .rxPush d) (hreset : ∀ d, i ≠ .sreset d) :
    t.rxbuf = s.rxbuf := by
  cases he with
  | rxPushPayload d => exact absurd rfl (hpush d)
  | sreset d => exact absurd rfl (hreset d)
  | _ => rfl

/-- R93: an accepted byte is written at TXCNT, a refused or discarded one nowhere. -/
theorem Effect.txPush_txbuf (he : Effect s (.txPush d) t) :
    t.txbuf = if s.txst = .opened ∧ s.txcnt ≠ 255 then s.txbuf.write s.txcnt.toNat d else s.txbuf := by
  cases he with
  | txPush _ hst hcnt => exact (if_pos ⟨hst, hcnt⟩).symm
  | txPushFull _ _ hcnt => exact (if_neg fun hacc => hacc.2 hcnt).symm
  | sequence _ hp =>
    have hst : s.txst ≠ .opened := by simpa [permitted] using hp
    exact (if_neg fun hacc => hst hacc.1).symm

/-- R114: a byte received in PAYLOAD is written at RXCNT, any other nowhere. -/
theorem Effect.rxPush_rxbuf (he : Effect s (.rxPush d) t) :
    t.rxbuf = if s.rxst = .atPayload then s.rxbuf.write s.rxcnt.toNat d else s.rxbuf := by
  cases he with
  | rxPushPayload _ hst => exact (if_pos hst).symm
  | rxPushPrefix _ hst | rxPushLen _ hst | rxPushOpc _ hst | rxPushChk _ hst | rxPushSuf _ hst | rxPushDone _ hst =>
    exact (if_neg (by simp [hst])).symm
  | sequence _ hp =>
    have hst : s.rxst = .idle := by simpa [permitted] using hp
    exact (if_neg (by simp [hst])).symm

/-- What a store under a condition shows: every other entry reads as before, and the entry itself is the byte where the
condition holds and is unchanged where it does not. -/
theorem Memory.read_of_store_if {m m' : Memory} (hm : m.wf) {p : Prop} [Decidable p] {a : Nat}
    (h : m' = if p then m.write a d else m) :
    (∀ x, x ≠ a → m'.read x = m.read x) ∧ (p → m'.read a = d) ∧ (¬ p → m'.read a = m.read a) := by
  subst h
  by_cases hp : p
  · simpa [hp, Memory.read_write_same hm] using fun x hx => Memory.read_write_other m d hx
  · simp [hp]

/-- R46: a count other than 255 is the index of an entry. -/
theorem toNat_lt_of_ne {c : Byte} (h : c ≠ 255) : c.toNat < 255 := by bv_omega

end Stores

/-- Settles O53: two frames, one for each buffer. -/
theorem otherCommandsLeaveBuffersAlone : Obligations.OtherCommandsLeaveBuffersAlone := by
  intro i s t h htx hrx hreset a
  have he := effect_of_exec h
  rw [he.txbuf_eq htx hreset, he.rxbuf_eq hrx hreset]
  exact ⟨rfl, rfl⟩

/-- Settles O51: TX_PUSH stores under the condition of R93, at an index that has an entry. -/
theorem txPushStoresOneEntry : Obligations.TxPushStoresOneEntry := by
  intro d s t hwf h
  have he := effect_of_exec h
  obtain ⟨hother, hstored, hkept⟩ := Memory.read_of_store_if hwf he.txPush_txbuf
  refine ⟨fun a => by rw [he.rxbuf_eq nofun nofun], hother, fun hst hcnt => ⟨toNat_lt_of_ne hcnt, hstored ⟨hst, hcnt⟩⟩,
    fun hrefused => hkept ?_⟩
  rintro ⟨hst, hcnt⟩
  exact hrefused.elim (absurd hst) hcnt

/-- Settles O52: RX_PUSH stores in PAYLOAD, at an index that has an entry, since at RXCNT = 255 it stops (log 11). -/
theorem rxPushStoresOneEntry : Obligations.RxPushStoresOneEntry := by
  intro d s t hwf h
  have he := effect_of_exec h
  obtain ⟨hother, hstored, hkept⟩ := Memory.read_of_store_if hwf he.rxPush_rxbuf
  have hindex (hst : s.rxst = .atPayload) : s.rxcnt ≠ 255 := fun hcnt =>
    nomatch h.symm.trans (exec_of_needsMissingEntry ⟨⟨d, rfl⟩, hst, hcnt⟩)
  exact ⟨fun a => by rw [he.txbuf_eq nofun nofun], hother, fun hst => ⟨toNat_lt_of_ne (hindex hst), hstored hst⟩, hkept⟩

/-! ## Reads without a side effect -/

/-- R54: the commands that return data other than TX_POP and RX_POP, as functions of the D they ignore, each with the byte
it returns where its rule permits it. -/
inductive StatusRead : (Byte → Instr) → (State → Byte) → Prop
  | crcRead : StatusRead .crcRead State.crc
  | txStat : StatusRead .txStat State.txstat
  | rxStat : StatusRead .rxStat State.rxstat
  | rxErr : StatusRead .rxErr fun s => primary s.errDraw s.rxflags
  | rxRdlen : StatusRead .rxRdlen State.rxlen
  | rxRdopc : StatusRead .rxRdopc State.rxopc
  | cmdStat : StatusRead .cmdStat State.cmdstat

/-- No response in the log and no flag of CMDSTAT decides whether a command is permitted. -/
theorem permitted_respond_cmdflags (i : Instr) (s : State) (c : CmdFlags) (r : Resp) :
    permitted i (State.respond { s with cmdflags := c } r) = permitted i s := by
  cases i <;> rfl

section StatusRead
variable {c : Byte → Instr} {f : State → Byte} {s : State} {d : Byte}

theorem StatusRead.exec_of_permitted (hc : StatusRead c f) (hp : permitted (c d) s = true) :
    exec (c d) s = completeWith (f s) s := by
  cases hc with
  | rxRdlen | rxRdopc => exact if_pos hp
  | crcRead | txStat | rxStat | rxErr | cmdStat => rfl

theorem StatusRead.permitted_eq (hc : StatusRead c f) (d d' : Byte) (s : State) :
    permitted (c d') s = permitted (c d) s := by
  cases hc <;> rfl

/-- No response in the log affects the byte returned; of RX_ERR under ANY this is log 6. -/
theorem StatusRead.value_respond (hc : StatusRead c f) (s : State) (r : Resp) : f (s.respond r) = f s := by
  cases hc <;> rfl

/-- Only RX_RDLEN and RX_RDOPC can be refused, and they are without an accepted frame (R119, R120). -/
theorem StatusRead.refused_iff (hc : StatusRead c f) (d : Byte) (s : State) :
    (c d = .rxRdlen d ∨ c d = .rxRdopc d) ∧ s.rxValid = false ↔ permitted (c d) s = false := by
  cases hc <;> simp [permitted]

/-- A read has no effect that another one, with any D, would see: it answers the same. -/
theorem StatusRead.repeats (hc : StatusRead c f) (d d' : Byte) (s : State) :
    ∃ t r u, exec (c d) s = .next t ∧ t.resps = s.resps ++ [r] ∧ exec (c d') t = .next u ∧ u.resps = t.resps ++ [r] := by
  cases hp : permitted (c d) s with
  | true =>
    have hp' : permitted (c d') (s.respond (.ofByte (f s))) = true :=
      (permitted_respond_cmdflags _ s s.cmdflags _).trans ((hc.permitted_eq d d' s).trans hp)
    refine ⟨_, _, _, hc.exec_of_permitted hp, rfl, hc.exec_of_permitted hp', ?_⟩
    rw [hc.value_respond]
    rfl
  | false =>
    have hp' := (permitted_respond_cmdflags (c d') s { s.cmdflags with sequence := true } .none).trans
      ((hc.permitted_eq d d' s).trans hp)
    exact ⟨_, _, _, exec_of_not_permitted hp, rfl, exec_of_not_permitted hp', rfl⟩

end StatusRead

/-- Settles O49: each of the seven is a `StatusRead`, which is permitted and returns its byte, or raises SEQUENCE. -/
theorem statusReadsHaveNoSideEffect : Obligations.StatusReadsHaveNoSideEffect := by
  intro d d' i i' s t hmem h
  obtain ⟨c, f, hc, rfl, rfl⟩ : ∃ c f, StatusRead c f ∧ i = c d ∧ i' = c d' := by
    simp only [List.mem_cons, Prod.mk.injEq, List.not_mem_nil, or_false] at hmem
    obtain ⟨rfl, rfl⟩ | ⟨rfl, rfl⟩ | ⟨rfl, rfl⟩ | ⟨rfl, rfl⟩ | ⟨rfl, rfl⟩ | ⟨rfl, rfl⟩ | ⟨rfl, rfl⟩ := hmem
    exacts [⟨_, _, .crcRead, rfl, rfl⟩, ⟨_, _, .txStat, rfl, rfl⟩, ⟨_, _, .rxStat, rfl, rfl⟩, ⟨_, _, .rxErr, rfl, rfl⟩,
      ⟨_, _, .rxRdlen, rfl, rfl⟩, ⟨_, _, .rxRdopc, rfl, rfl⟩, ⟨_, _, .cmdStat, rfl, rfl⟩]
  intro refused
  have hrefused : refused ↔ permitted (c d) s = false := hc.refused_iff d s
  rw [hrefused, Bool.not_eq_false]
  refine ⟨fun hp => ?_, fun hp => ⟨f s, ?_⟩, ?_⟩
  · exact raiseSequence_next_iff.mp ((exec_of_not_permitted hp).symm.trans h)
  · exact completeWith_next_iff.mp ((hc.exec_of_permitted hp).symm.trans h)
  · obtain ⟨t', r, u, ht', hr, hu⟩ := hc.repeats d d' s
    cases h.symm.trans ht'
    exact ⟨r, u, hr, hu⟩

end Sys2Proof.Machine
end

section
/-! Statements of 30_encoding.md: the decoder and the encoder undo each other (R61, R69), the illegal codes (R65), the
one response of a command word (R64), and the commands that ignore D (R62). -/

namespace Sys2Proof.Machine

/-! ## The command map, read both ways -/

/-- R61: the decoder reads the two fields of the word and nothing else. -/
theorem decode_append (c d : Byte) : decode (c ++ d) = decodeFields c d := by
  rw [decode, Word.cmd_append, Word.operand_append]

/-- R63: the two readings of the command map agree; a code and a D name one command. -/
theorem decodeFields_command_iff {c d : Byte} {i : Instr} :
    decodeFields c d = .command i ↔ c = i.code ∧ d = i.operand := by
  constructor
  · intro h
    unfold decodeFields at h
    split at h <;> cases h <;> exact ⟨rfl, rfl⟩
  · rintro ⟨rfl, rfl⟩
    cases i <;> rfl

/-- Settles O2: the fields of the encoded word are the command's code and its D. -/
theorem decodeOfEncodeIsIdentity : Obligations.DecodeOfEncodeIsIdentity := fun i =>
  (decode_append i.code i.operand).trans (decodeFields_command_iff.mpr ⟨rfl, rfl⟩)

/-- Settles O3: a legal word has its command's code and D as its fields, and a word is its fields. -/
theorem encodeOfDecodeIsIdentity : Obligations.EncodeOfDecodeIsIdentity := by
  intro w i h
  obtain ⟨hcode, hoperand⟩ := decodeFields_command_iff.mp h
  calc encode i = w.cmd ++ w.operand := by rw [hcode, hoperand, encode]
    _ = w := w.append_fields

/-- Settles O1: each row's word is its command's encoding, whose decoding is O2. -/
theorem decoderReadsEveryCommandWord : Obligations.DecoderReadsEveryCommandWord := by
  intro d
  have h := decodeOfEncodeIsIdentity
  exact ⟨h (.nop d), h (.sreset d), h (.cmdStat d), h (.cmdClr d), h (.crcInit d), h (.crcFeed d), h (.crcRead d),
    h (.txStart d), h (.txPush d), h (.txEnd d), h (.txPop d), h (.txStat d), h (.rxStart d), h (.rxPush d),
    h (.rxEnd d), h (.rxStat d), h (.rxErr d), h (.rxRdlen d), h (.rxRdopc d), h (.rxPop d)⟩

/-! ## The illegal codes -/

/-- R65's ranges, as numbers. -/
theorem illegalCode_iff {c : Byte} :
    illegalCode c = true ↔ (0x04 ≤ c.toNat ∧ c.toNat ≤ 0x0F) ∨ (0x13 ≤ c.toNat ∧ c.toNat ≤ 0x1F) ∨
      (0x25 ≤ c.toNat ∧ c.toNat ≤ 0x2F) ∨ (0x38 ≤ c.toNat ∧ c.toNat ≤ 0xFF) := by
  have hlast : c.toNat ≤ 0xFF := Nat.le_of_lt_succ c.isLt
  simp only [illegalCode, Bool.or_eq_true, decide_eq_true_eq, or_assoc, hlast, and_true]

theorem illegalCode_code (i : Instr) : illegalCode i.code = false := by
  cases i <;> rfl

/-- R65, R66: D decides nothing, and the map has a row for every code outside the ranges and for no other. -/
theorem decodeFields_illegal_iff {c d : Byte} : (∃ c', decodeFields c d = .illegal c') ↔ illegalCode c = true := by
  constructor
  · rintro ⟨c', h⟩
    unfold decodeFields at h
    split at h
    -- the default branch, where c differs from each of the twenty codes
    case h_21 =>
      simp only [imp_false, BitVec.toNat_eq, BitVec.toNat_ofNat] at *
      rw [illegalCode_iff]
      omega
    all_goals cases h
  · intro hc
    cases hdec : decodeFields c d with
    | command i =>
      rw [(decodeFields_command_iff.mp hdec).1, illegalCode_code] at hc
      cases hc
    | illegal c' => exact ⟨c', rfl⟩

/-- Settles O4: the decoder rejects by the code alone, and R65's ranges are the codes the map lacks. -/
theorem decoderRejectsExactlyIllegalCodes : Obligations.DecoderRejectsExactlyIllegalCodes := fun _ =>
  ⟨decodeFields_illegal_iff.trans illegalCode_iff, fun _ => decodeFields_illegal⟩

/-! ## One response per command word -/

/-- R64: every branch of a command ends in one response, which carries a byte or is (0, 0x00). -/
theorem Effect.answers {s t : State} {i : Instr} (he : Effect s i t) :
    ∃ r : Resp, t.resps = s.resps ++ [r] ∧ (r.valid = false → r.data = 0x00) := by
  cases he with
  | cmdStat | crcRead | txPop | txStat | rxStat | rxErr | rxRdlen | rxRdopc | rxPop => exact ⟨.ofByte _, rfl, nofun⟩
  | _ => exact ⟨.none, rfl, fun _ => rfl⟩

/-- R64, R145: and so does an illegal word. -/
theorem WordEffect.answers {s t : State} {w : Word} (he : WordEffect s w t) :
    ∃ r : Resp, t.resps = s.resps ++ [r] ∧ (r.valid = false → r.data = 0x00) := by
  cases he with
  | command _ he => exact he.answers
  | illegal => exact ⟨.none, rfl, fun _ => rfl⟩

/-- Settles O8: the step is the effect of the word it takes, which leaves the queue behind it and answers once. -/
theorem oneResponsePerCommand : Obligations.OneResponsePerCommand := by
  intro s t w ws hinput hstep
  rw [step_cons hinput, runWord_next_iff] at hstep
  exact ⟨hstep.input_eq, hstep.answers⟩

/-! ## The ignored operand -/

/-- R62's four commands, by code. -/
theorem ignores_operand_iff_code {i : Instr} :
    i.usesOperand = false ↔ i.code ≠ 0x11 ∧ i.code ≠ 0x20 ∧ i.code ≠ 0x21 ∧ i.code ≠ 0x31 := by
  cases i <;> simp [Instr.usesOperand, Instr.code]

/-- R62: a command that ignores D is run the same when its code comes with another D. -/
theorem exec_eq_of_ignores_operand {i j : Instr} {d : Byte} (hi : i.usesOperand = false)
    (hj : decodeFields i.code d = .command j) (s : State) : exec i s = exec j s := by
  cases i with
  | crcFeed | txStart | txPush | rxPush => cases hi
  | nop | sreset | cmdStat | cmdClr | crcInit | crcRead | txEnd | txPop | txStat | rxStart | rxEnd | rxStat | rxErr
  | rxRdlen | rxRdopc | rxPop =>
    cases hj
    rfl

/-- Settles O50: the second command is the first one's code with another D. -/
theorem ignoredOperandHasNoEffect : Obligations.IgnoredOperandHasNoEffect := by
  intro i j s hcode hfeed hstart htx hrx
  have hi : i.usesOperand = false := ignores_operand_iff_code.mpr ⟨hfeed, hstart, htx, hrx⟩
  exact exec_eq_of_ignores_operand hi (decodeFields_command_iff.mpr ⟨hcode, rfl⟩) s

end Sys2Proof.Machine
end

section
/-! Statements of 40_crc.md: the commands of the CRC unit (R83 to R85), the run of CRC_OF (R68), and the properties
of the CRC function (R86). -/

namespace Sys2Proof.Machine

/-! ## The commands -/

/-- Settles O14: the word is the command's encoding (O2), and CRC_INIT has one branch. -/
theorem crcInitLoadsInitialValue : Obligations.CrcInitLoadsInitialValue := fun d _ =>
  ⟨decodeOfEncodeIsIdentity (.crcInit d), rfl⟩

/-- Settles O15: the word is the command's encoding (O2), and CRC_FEED has one branch. -/
theorem crcFeedFoldsOneByte : Obligations.CrcFeedFoldsOneByte := fun d _ =>
  ⟨decodeOfEncodeIsIdentity (.crcFeed d), rfl⟩

/-- Settles O16: the word is the command's encoding (O2), and CRC_READ has one branch. -/
theorem crcReadReturnsAccumulator : Obligations.CrcReadReturnsAccumulator := fun d _ =>
  ⟨decodeOfEncodeIsIdentity (.crcRead d), rfl⟩

/-! ## The run of CRC_OF -/

/-- A run of encoded commands goes on from the first command's next state. -/
theorem issue_words_cons {i : Instr} {s t : State} (h : exec i s = .next t) (is : List Instr) :
    issue (words (i :: is)) s = issue (words is) t :=
  issue_command (decodeOfEncodeIsIdentity i) h (words is)

/-- R84, R85: the run of CRC_OF without its CRC_INIT folds the bytes into CRC as it stands, and answers the result. -/
theorem issue_crcFeeds_crcRead (bs : List Byte) (s : State) :
    issue (words (bs.map Instr.crcFeed ++ [.crcRead 0])) s = .next { s with
      crc := crcFrom s.crc bs
      input := []
      resps := s.resps ++ List.replicate bs.length .none ++ [.ofByte (crcFrom s.crc bs)] } := by
  induction bs generalizing s with
  | nil =>
    rw [List.map_nil, List.nil_append, issue_words_cons (crcReadReturnsAccumulator 0 s).2]
    simp [words, Resp.ofByte]
  | cons b bs ih =>
    rw [List.map_cons, List.cons_append, issue_words_cons (crcFeedFoldsOneByte b s).2, ih]
    simp [List.replicate_succ, Resp.none]

/-- Settles O17: CRC_INIT, and then the feeds and the read from CRC = 0xFF. -/
theorem crcOfRunReturnsCrc8 : Obligations.CrcOfRunReturnsCrc8 := by
  intro s bs
  have hrun : crcOf bs = .crcInit 0 :: (bs.map Instr.crcFeed ++ [.crcRead 0]) := by simp [crcOf]
  rw [hrun, issue_words_cons (crcInitLoadsInitialValue 0 s).2, issue_crcFeeds_crcRead, crc8_eq_crcFrom]
  simp [List.replicate_succ, Resp.none, Resp.ofByte]

/-! ## Residue and affinity -/

theorem crcShifts_eq_iterate (n : Nat) (r : Byte) : crcShifts n r = crcShift^[n] r := by
  induction n generalizing r with
  | zero => rfl
  | succ n ih => exact ih (crcShift r)

/-- No shift makes anything of 0. -/
theorem iterate_crcShift_zero (n : Nat) : crcShift^[n] 0 = 0 := Function.iterate_fixed rfl n

/-- Folding a CRC into itself leaves nothing (R86(b)). -/
theorem crcStep_self (c : Byte) : crcStep c c = 0 := by
  rw [crcStep, BitVec.xor_self, crcShifts_eq_iterate]
  exact iterate_crcShift_zero _

/-- Settles O18: the check value by computation, the residue by the last step, which folds the CRC into itself. -/
theorem crcCheckValueAndResidue : Obligations.CrcCheckValueAndResidue :=
  ⟨by decide +kernel, fun s => (crc8_append_single s (crc8 s)).trans (crcStep_self _)⟩

/-- R86(c) for every pair of initial values. -/
theorem crcFrom_xorBytes (c d : Byte) {s e : List Byte} (h : s.length = e.length) :
    crcFrom (c ^^^ d) (xorBytes s e) = crcFrom c s ^^^ crcFrom d e := by
  induction s generalizing c d e with
  | nil =>
    cases e with
    | nil => rfl
    | cons => cases h
  | cons a s ih =>
    cases e with
    | nil => cases h
    | cons b e =>
      calc crcFrom (c ^^^ d) (xorBytes (a :: s) (b :: e))
          = crcFrom (crcStep (c ^^^ d) (a ^^^ b)) (xorBytes s e) := rfl
        _ = crcFrom (crcStep c a) s ^^^ crcFrom (crcStep d b) e := by rw [crcStep_xor, ih _ _ (Nat.succ.inj h)]

/-- Settles O19: the initial value of the exclusive-or is 0xFF ^ 0x00. -/
theorem crcIsAffine : Obligations.CrcIsAffine := fun s e h => by
  rw [crc8_eq_crcFrom, crc8_eq_crcFrom, ← crcFrom_xorBytes _ _ h]
  rfl

/-! ## Errors of one bit and of two: `crc0(x^p) = x^(p + 8) mod G`, one shift being the product with x -/

/-- A zero byte is eight shifts, so k of them are 8k. -/
theorem crcFrom_zeros (k : Nat) (c : Byte) : crcFrom c (List.replicate k 0) = crcShift^[8 * k] c := by
  induction k generalizing c with
  | zero => rfl
  | succ k ih =>
    rw [List.replicate_succ, crcFrom_cons, ih, crcStep_zero, crcShifts_eq_iterate, ← Function.iterate_add_apply]
    rfl

/-- Below x^8 nothing is folded in. -/
theorem iterate_crcShift_one_of_lt {j : Nat} (h : j < 8) : crcShift^[j] 1 = 1#8 <<< j := by
  decide +revert

/-- Bit p lies in the byte that p / 8 bytes follow. -/
theorem bitError_eq {n p : Nat} (h : p < 8 * n) :
    bitError n p = List.replicate (n - 1 - p / 8) 0 ++ (1#8 <<< (p % 8)) :: List.replicate (p / 8) 0 := by
  have hk : n - 1 - p / 8 < n := by omega
  have hrest : n - (n - 1 - p / 8 + 1) = p / 8 := by omega
  rw [bitError, flipBit, List.set_eq_take_append_cons_drop, if_pos (by simpa using hk)]
  simp [List.take_replicate, List.drop_replicate, hrest, hk.le]

/-- R86(d): the CRC of the error x^p is x^(p + 8), reduced: the leading zero bytes leave 0, the set bit is x^(p % 8) at
its own byte's step, and each of the p / 8 bytes after it is eight shifts more. -/
theorem crcFrom_bitError {n p : Nat} (h : p < 8 * n) : crcFrom 0x00 (bitError n p) = crcShift^[p + 8] 1 := by
  have hbyte : crcStep 0x00 (1#8 <<< (p % 8)) = crcShift^[8 + p % 8] 1 := by
    rw [crcStep, crcShifts_eq_iterate, Function.iterate_add_apply,
      iterate_crcShift_one_of_lt (Nat.mod_lt p (by decide))]
    simp
  have hexponent : 8 * (p / 8) + (8 + p % 8) = p + 8 := by omega
  calc crcFrom 0x00 (bitError n p)
      = crcFrom (crcStep 0x00 (1#8 <<< (p % 8))) (List.replicate (p / 8) 0) := by
        rw [bitError_eq h, crcFrom_append, crcFrom_zeros, iterate_crcShift_zero, crcFrom_cons]
    _ = crcShift^[8 * (p / 8) + (8 + p % 8)] 1 := by
        rw [hbyte, crcFrom_zeros, ← Function.iterate_add_apply]
    _ = crcShift^[p + 8] 1 := by rw [hexponent]

/-- Settles O20: no shift takes anything but 0 to 0, and the error begins as 1. -/
theorem singleBitErrorIsDetected : Obligations.SingleBitErrorIsDetected := by
  intro n p hp hcrc
  have hshift : crcShift^[p + 8] 1 = crcShift^[p + 8] 0 := by
    rw [← crcFrom_bitError hp, hcrc, iterate_crcShift_zero]
  exact absurd (crcShift_injective.iterate (p + 8) hshift) (by decide)

/-- R86(f): the multiplicative order of x modulo G. 127 is prime, so no smaller one is left but 1. -/
theorem minimalPeriod_crcShift_one : Function.minimalPeriod crcShift 1 = 127 := by
  have : Fact (Nat.Prime 127) := ⟨by norm_num⟩
  have hreturns : Function.IsPeriodicPt crcShift 127 1 := by
    show crcShift^[127] 1 = 1
    decide +kernel
  have hmoves : ¬ Function.IsFixedPt crcShift 1 := by
    show ¬ crcShift 1 = 1
    decide
  exact Function.minimalPeriod_eq_prime hreturns hmoves

/-- Two powers of x are the same modulo G exactly when the order of x divides the distance. -/
theorem iterate_crcShift_one_eq_iff (m k : Nat) : crcShift^[m] 1 = crcShift^[m + k] 1 ↔ 127 ∣ k := by
  rw [Function.iterate_add_apply, (crcShift_injective.iterate m).eq_iff, eq_comm, ← minimalPeriod_crcShift_one]
  exact Function.isPeriodicPt_iff_minimalPeriod_dvd

theorem length_bitError (n p : Nat) : (bitError n p).length = n := by simp [bitError, flipBit]

/-- Settles O22: the CRC of the two errors is zero exactly when their CRCs are equal. -/
theorem doubleBitErrorEscapesIff127Apart : Obligations.DoubleBitErrorEscapesIff127Apart := by
  intro n p q hpq hq
  have hlen : (bitError n p).length = (bitError n q).length := by simp only [length_bitError]
  have hp : p < 8 * n := hpq.trans hq
  have hdist : q + 8 = p + 8 + (q - p) := by omega
  calc crcFrom 0x00 (xorBytes (bitError n p) (bitError n q)) = 0x00
      ↔ crcFrom 0x00 (bitError n p) ^^^ crcFrom 0x00 (bitError n q) = 0x00 := by
        rw [← crcFrom_xorBytes _ _ hlen]
        rfl
    _ ↔ crcShift^[p + 8] 1 = crcShift^[p + 8 + (q - p)] 1 := by
        rw [crcFrom_bitError hp, crcFrom_bitError hq, hdist]
        exact BitVec.xor_eq_zero_iff
    _ ↔ 127 ∣ q - p := iterate_crcShift_one_eq_iff (p + 8) (q - p)

/-! ## Errors of odd weight: (x + 1) divides G, so a CRC keeps the parity of what is folded in -/

theorem weight_cons (b : Byte) (bs : List Byte) : weight (b :: bs) = weight [b] + weight bs := by
  simp [weight]

/-- An exclusive-or loses the common elements twice. -/
theorem length_filter_xor_parity {α : Type} (p q : α → Bool) (l : List α) :
    (l.filter fun i => p i ^^ q i).length % 2 = ((l.filter p).length + (l.filter q).length) % 2 := by
  induction l with
  | nil => rfl
  | cons a l ih => cases hp : p a <;> cases hq : q a <;> simp [hp, hq] <;> omega

theorem weight_xor_parity (a b : Byte) : weight [a ^^^ b] % 2 = (weight [a] + weight [b]) % 2 := by
  have h := length_filter_xor_parity a.getLsbD b.getLsbD (List.range 8)
  simpa [weight, ← BitVec.getLsbD_xor] using h

/-- G has an even number of terms: the bit that is shifted out comes back as three. -/
theorem weight_crcShift_parity (r : Byte) : weight [crcShift r] % 2 = weight [r] % 2 := by
  decide +revert

theorem weight_crcShifts_parity (n : Nat) (r : Byte) : weight [crcShifts n r] % 2 = weight [r] % 2 := by
  induction n generalizing r with
  | zero => rfl
  | succ n ih => exact (ih _).trans (weight_crcShift_parity r)

theorem weight_crcStep_parity (c b : Byte) : weight [crcStep c b] % 2 = (weight [c] + weight [b]) % 2 :=
  (weight_crcShifts_parity _ _).trans (weight_xor_parity c b)

theorem weight_crcFrom_parity (c : Byte) (bs : List Byte) : weight [crcFrom c bs] % 2 = weight (c :: bs) % 2 := by
  induction bs generalizing c with
  | nil => rfl
  | cons b bs ih =>
    have hstep := weight_crcStep_parity c b
    rw [crcFrom_cons, ih, weight_cons, weight_cons c, weight_cons b]
    omega

/-- Settles O21: the CRC of an error of odd weight has odd weight, and 0x00 has none. -/
theorem oddWeightErrorIsDetected : Obligations.OddWeightErrorIsDetected := by
  intro e hodd hcrc
  have hparity := weight_crcFrom_parity 0x00 e
  have hzero : weight [0x00] = 0 := rfl
  rw [hcrc, weight_cons 0x00 e, hzero] at hparity
  omega

end Sys2Proof.Machine
end

section
/-! Statements of 41_serializer.md: the commands of the serializer (R92 to R97), the bytes of the frame held in READY
(R95, R99), and the run of TX_FRAME and its drain against `encode` (R98). -/

namespace Sys2Proof.Machine

/-! ## The frame as TX_POP reads it and as `encode` gives it -/

section TxByte
variable {s : State} {i : Nat}

/-- R95, at the payload's offsets. -/
theorem txByte_payload (h3 : 3 ≤ i) (hi : i ≤ 2 + s.txcnt.toNat) : txByte s i = s.txbuf.read (i - 3) := by
  simp [txByte, hi, show i ≠ 0 by omega, show i ≠ 1 by omega, show i ≠ 2 by omega]

/-- R95, at the offset after the payload. -/
theorem txByte_crc (s : State) : txByte s (3 + s.txcnt.toNat) = s.txcrc := by
  simp [txByte, show 3 + s.txcnt.toNat ≠ 1 by omega, show 3 + s.txcnt.toNat ≠ 2 by omega]

/-- R95, at the last offset. -/
theorem txByte_suffix (s : State) : txByte s (4 + s.txcnt.toNat) = suffixByte := by
  simp [txByte, show 4 + s.txcnt.toNat ≠ 1 by omega, show 4 + s.txcnt.toNat ≠ 2 by omega]

/-- The frame held in READY, byte by byte as TX_POP returns it (R96). -/
def State.txBytes (s : State) : List Byte := (List.range (5 + s.txcnt.toNat)).map (txByte s)

@[simp] theorem State.txBytes_length (s : State) : s.txBytes.length = 5 + s.txcnt.toNat := by simp [State.txBytes]

theorem State.txBytes_getD (h : i < 5 + s.txcnt.toNat) : s.txBytes.getD i 0 = txByte s i := by
  simp [State.txBytes, h]

/-- The fields of the frame in their order: R95's offsets, read from 0 on. -/
theorem State.txBytes_eq (s : State) :
    s.txBytes = [prefixByte, s.txcnt, s.txopc] ++ s.txbuf.slice s.txcnt.toNat ++ [s.txcrc, suffixByte] := by
  have hpayload : (List.range s.txcnt.toNat).map (fun i => txByte s (3 + i)) = s.txbuf.slice s.txcnt.toNat :=
    List.map_congr_left fun i hi => by
      have hlt := List.mem_range.mp hi
      rw [txByte_payload (by omega) (by omega), Nat.add_sub_cancel_left]
  have hsuffix : txByte s (3 + (s.txcnt.toNat + 1)) = suffixByte := by rw [← txByte_suffix s]; congr 1; omega
  have hheader : (List.range 3).map (txByte s) = [prefixByte, s.txcnt, s.txopc] := rfl
  calc s.txBytes
    _ = (List.range 3).map (txByte s) ++ (List.range (s.txcnt.toNat + 2)).map (fun i => txByte s (3 + i)) := by
      rw [State.txBytes, show 5 + s.txcnt.toNat = 3 + (s.txcnt.toNat + 2) by omega, List.range_add, List.map_append,
        List.map_map]
      rfl
    _ = _ := by
      rw [hheader]
      simp only [List.range_succ, List.map_append, hpayload, List.map_cons, List.map_nil, txByte_crc, hsuffix,
        List.append_assoc, List.cons_append, List.nil_append]

end TxByte

/-- R91: the preconditions of `encode`. -/
def Encodable (p : List Byte) : Prop := 1 ≤ p.length ∧ p.length ≤ 255 ∧ allAscii p = true

/-- R91: the frame of an accepted payload. -/
def frameBytes (o : Byte) (p : List Byte) : List Byte :=
  [prefixByte, BitVec.ofNat 8 p.length, o] ++ p ++ [crc8 (o :: p), suffixByte]

theorem encodeFrame_of_encodable {p : List Byte} (h : Encodable p) (o : Byte) :
    encodeFrame o p = .ok (frameBytes o p) := by
  obtain ⟨hpos, hmax, hascii⟩ := h
  refine if_neg ?_
  rintro (hempty | hlong | hbad)
  · exact absurd hpos (Nat.not_le.mpr hempty)
  · exact absurd hmax (Nat.not_le.mpr hlong)
  · exact Bool.noConfusion (hascii.symm.trans hbad)

theorem encodeFrame_of_not_encodable {p : List Byte} (h : ¬ Encodable p) (o : Byte) :
    encodeFrame o p = .invalidPayload := by
  refine if_pos ?_
  by_contra hgood
  simp only [not_or, Nat.not_lt, Bool.not_eq_false] at hgood
  exact h hgood

/-- R23, R95: with the CRC of opcode and payload in TXCRC, the frame that TX_POP reads is the one `encode` gives. -/
theorem State.txBytes_eq_frameBytes {s : State} {p : List Byte} (hp : s.txbuf.slice s.txcnt.toNat = p)
    (hcrc : s.txcrc = crc8 (s.txopc :: p)) : s.txBytes = frameBytes s.txopc p := by
  have hlen : BitVec.ofNat 8 p.length = s.txcnt := by
    rw [← hp, Memory.slice_length, BitVec.ofNat_toNat, BitVec.setWidth_eq]
  rw [State.txBytes_eq, hp, hcrc, frameBytes, hlen]

/-- Settles O29: in READY the invariant gives R91's preconditions and R23, so TX_POP reads the frame of `encode`. -/
theorem readyFrameIsEncodedPayload : Obligations.ReadyFrameIsEncodedPayload := by
  intro s h hst
  have hbusy : s.txst ≠ .idle := by simp [hst]
  obtain ⟨hrd, hpos, hclear⟩ := h.r40b hst
  have hascii : allAscii (s.txbuf.slice s.txcnt.toNat) = true := by
    simpa [hclear, TxFlags.clear] using h.tx_nonAscii hbusy
  have hp : Encodable (s.txbuf.slice s.txcnt.toNat) := by
    rw [Encodable, Memory.slice_length]
    exact ⟨hpos, Nat.le_of_lt_succ s.txcnt.isLt, hascii⟩
  refine ⟨s.txBytes, ?_, s.txBytes_length, s.txBytes_length ▸ hrd, _, exec_of_effect (.txPop 0 hst), ?_⟩
  · rw [encodeFrame_of_encodable hp, State.txBytes_eq_frameBytes rfl (h.r23 hbusy)]
  · rw [State.txBytes_getD hrd]
    rfl

/-! ## The commands -/

/-- Settles O23: the word is the command's encoding (O2), and TX_START has one branch. -/
theorem txStartOpensFrame : Obligations.TxStartOpensFrame := fun d _ => ⟨decodeOfEncodeIsIdentity (.txStart d), rfl⟩

/-- R12: a byte is not ASCII when its bit 7 is set. -/
theorem not_isAscii (b : Byte) : (!isAscii b) = b.getLsbD 7 := Bool.not_not _

/-- NONASCII says that some byte has bit 7 set (R12). -/
theorem not_allAscii_iff {bs : List Byte} : (!allAscii bs) = true ↔ ∃ b ∈ bs, b.getLsbD 7 = true := by
  simp [allAscii, isAscii]

/-- Settles O24: the three branches are `Effect`'s, and NONASCII gathers bit 7 of the byte. -/
theorem txPushAppendsOrMarksTooLong : Obligations.TxPushAppendsOrMarksTooLong := by
  intro d s
  refine ⟨decodeOfEncodeIsIdentity (.txPush d), fun hst => ?_, fun hst hcnt => ?_, fun hst hcnt => ?_⟩
  · exact exec_of_not_permitted (by simpa [permitted] using hst)
  · exact exec_of_effect (.txPushFull d hst hcnt)
  · exact not_isAscii d ▸ exec_of_effect (.txPush d hst hcnt)

/-- R94: the three causes for which TX_END rejects the payload. -/
theorem txEnd_rejects_iff {s : State} : (s.txcnt == 0 || s.txflags.tooLong || s.txflags.nonAscii) = true ↔
    s.txcnt = 0 ∨ s.txflags.tooLong = true ∨ s.txflags.nonAscii = true := by
  simp [or_assoc]

/-- Settles O25: `Effect`'s branches; of the three causes only EMPTY is a flag that TX_END itself sets. -/
theorem txEndAcceptsOrRejectsPayload : Obligations.TxEndAcceptsOrRejectsPayload := by
  intro d s
  refine ⟨decodeOfEncodeIsIdentity (.txEnd d), fun hst => ?_, fun hst hcnt => ?_, fun hst hcnt hbad => ?_,
    fun hst hcnt hshort hascii => ?_⟩
  · exact exec_of_not_permitted (by simpa [permitted] using hst)
  · have hempty : (s.txflags.empty || s.txcnt == 0) = true := by simp [hcnt]
    rw [exec_of_effect (.txEndReject d hst (txEnd_rejects_iff.mpr (.inl hcnt))), hempty]
    rfl
  · have hempty : (s.txflags.empty || s.txcnt == 0) = s.txflags.empty := by
      rw [beq_eq_false_iff_ne.mpr hcnt, Bool.or_false]
    rw [exec_of_effect (.txEndReject d hst (txEnd_rejects_iff.mpr (.inr hbad))), hempty]
    rfl
  · have hok : ¬ (s.txcnt = 0 ∨ s.txflags.tooLong = true ∨ s.txflags.nonAscii = true) := by
      simpa [hshort, hascii] using hcnt
    exact exec_of_effect (.txEnd d hst (Bool.eq_false_iff.mpr (mt txEnd_rejects_iff.mp hok)))

/-- Settles O26: the byte is `txByte` at TXRD, by R95's offsets. -/
theorem txPopReturnsNextFrameByte : Obligations.TxPopReturnsNextFrameByte := by
  intro d s
  refine ⟨decodeOfEncodeIsIdentity (.txPop d), fun hst => ?_, fun hst => ⟨txByte s s.txrd.toNat, ?_, ?_⟩⟩
  · exact exec_of_not_permitted (by simpa [permitted] using hst)
  · exact hst ▸ exec_of_effect (.txPop d hst)
  · intro i len
    refine ⟨fun h => ?_, fun h => ?_, fun h => ?_, txByte_payload, fun _ h => ?_, fun _ h => ?_⟩
    · exact congrArg (txByte s) h
    · exact congrArg (txByte s) h
    · exact congrArg (txByte s) h
    · exact (congrArg (txByte s) h).trans (txByte_crc s)
    · exact (congrArg (txByte s) h).trans (txByte_suffix s)

/-- A status bit stands in its own place and nowhere else. -/
theorem getLsbD_bitAt (b : Bool) {i : Nat} (hi : i < 8) (k : Nat) : (bitAt b i).getLsbD k = (decide (k = i) && b) := by
  rw [bitAt, BitVec.getLsbD_shiftLeft, BitVec.getLsbD_setWidth, BitVec.getLsbD_ofBool]
  by_cases hk : k = i
  · simp [hk, hi]
  · have hplace : ¬ (i ≤ k ∧ k - i = 0) := by omega
    simp [hk]
    omega

/-- Settles O27: each bit of TXSTAT, by the place of its flag. -/
theorem txStatReturnsSerializerStatus : Obligations.TxStatReturnsSerializerStatus := by
  intro d s
  refine ⟨decodeOfEncodeIsIdentity (.txStat d), s.txstat, rfl, ?_⟩
  have hbit (k : Nat) : s.txstat.getLsbD k =
      (decide (k = 0) && s.txflags.invalidPayload || decide (k = 1) && s.txflags.empty ||
        decide (k = 2) && s.txflags.tooLong || decide (k = 3) && s.txflags.nonAscii ||
        decide (k = 4) && s.txst == .opened || decide (k = 5) && s.txst == .ready) := by
    simp [State.txstat, getLsbD_bitAt]
  simp only [hbit]
  refine ⟨by simp, by simp, by simp, by simp, by simp; rfl, by simp; rfl, fun k hk => ?_⟩
  have hplace (i : Nat) (hi : i < 6) : decide (k = i) = false := decide_eq_false (by omega)
  simp [hplace]

/-! ## Runs of commands -/

/-- The commands answer next states one after another, from s to t. -/
inductive Runs : List Instr → State → State → Prop
  | nil (s : State) : Runs [] s s
  | cons {i : Instr} {is : List Instr} {s t u : State} (h : exec i s = .next t) (hrun : Runs is t u) :
    Runs (i :: is) s u

theorem Runs.append {is js : List Instr} {s t u : State} (h : Runs is s t) (hjs : Runs js t u) :
    Runs (is ++ js) s u := by
  induction h with
  | nil => exact hjs
  | cons h _ ih => exact .cons h (ih hjs)

theorem Runs.single {i : Instr} {s t : State} (h : exec i s = .next t) : Runs [i] s t := .cons h (.nil t)

/-- The host's run of their words ends in the same state, with the queue empty. -/
theorem Runs.issue_eq {is : List Instr} {s t : State} (h : Runs is s t) :
    issue (words is) s = .next (t.setInput []) := by
  induction h with
  | nil s => exact issue_nil s
  | cons h _ ih => exact (issue_words_cons h _).trans ih

/-! ## The run of TX_FRAME -/

section TxFrame
variable {o : Byte} {p : List Byte} {s : State}

/-- R92, R93: the serializer after TX_START o and the pushes of p. The payload held is the first 255 bytes of p. -/
structure TxBuilding (o : Byte) (p : List Byte) (s : State) : Prop where
  st : s.txst = .opened
  opc : s.txopc = o
  wf : s.txbuf.wf
  held : s.txbuf.slice s.txcnt.toNat = p.take 255
  crc : s.txcrc = crc8 (o :: p.take 255)
  flags : s.txflags = ⟨false, false, decide (255 < p.length), !allAscii (p.take 255)⟩

theorem TxBuilding.cnt (h : TxBuilding o p s) : s.txcnt.toNat = min 255 p.length := by
  rw [← Memory.slice_length s.txbuf s.txcnt.toNat, h.held, List.length_take]

/-- The commands so far answered without data and raised no command error. -/
def Silent (n : Nat) (s t : State) : Prop := t.cmdflags = s.cmdflags ∧ t.resps = s.resps ++ List.replicate n .none

theorem Silent.trans {m n : Nat} {s t u : State} (h : Silent m s t) (h' : Silent n t u) : Silent (m + n) s u :=
  ⟨h'.1.trans h.1, by rw [h'.2, h.2, List.append_assoc, List.replicate_append_replicate]⟩

theorem txStart_builds (o : Byte) (hwf : s.txbuf.wf) :
    ∃ t, exec (.txStart o) s = .next t ∧ TxBuilding o [] t ∧ Silent 1 s t :=
  ⟨_, exec_of_effect (.txStart o), ⟨rfl, rfl, hwf, rfl, (crc8_single o).symm, rfl⟩, rfl, rfl⟩

/-- R93: a push appends its byte to the first 255, and is a 256th or later one otherwise. -/
theorem txPush_builds (h : TxBuilding o p s) (d : Byte) :
    ∃ t, exec (.txPush d) s = .next t ∧ TxBuilding o (p ++ [d]) t ∧ Silent 1 s t := by
  have hcnt := h.cnt
  by_cases hfull : 255 ≤ p.length
  · have htake : (p ++ [d]).take 255 = p.take 255 := List.take_append_of_le_length hfull
    have hlong : 255 < (p ++ [d]).length := by rw [List.length_append, List.length_singleton]; omega
    refine ⟨_, exec_of_effect (.txPushFull d h.st (by bv_omega)), ?_, rfl, rfl⟩
    exact { h with
      held := htake ▸ h.held
      crc := htake ▸ h.crc
      flags := by simp only [State.respond_txflags, h.flags, htake, hlong, decide_true] }
  · have hne : s.txcnt ≠ 255 := by bv_omega
    have hshort : ¬ 255 < p.length := by omega
    have hlast : ¬ 255 < (p ++ [d]).length := by rw [List.length_append, List.length_singleton]; omega
    have htake : (p ++ [d]).take 255 = p.take 255 ++ [d] := by
      rw [List.take_of_length_le (by omega), List.take_of_length_le (by omega)]
    refine ⟨_, exec_of_effect (.txPush d h.st hne), ?_, rfl, rfl⟩
    exact {
      st := h.st
      opc := h.opc
      wf := write_count_wf h.wf hne d
      held := by
        simp only [State.respond_txbuf, State.respond_txcnt, toNat_add_one_of_ne hne, Memory.slice_write h.wf, h.held,
          htake]
      crc := by
        simp only [State.respond_txcrc, h.crc, htake, ← List.cons_append, crc8_append_single]
      flags := by
        simp only [State.respond_txflags, h.flags, htake, hshort, hlast, allAscii_append, allAscii_cons, allAscii_nil,
          Bool.and_true, Bool.not_and] }

theorem txPushes_build (ds : List Byte) (h : TxBuilding o p s) :
    ∃ t, Runs (ds.map Instr.txPush) s t ∧ TxBuilding o (p ++ ds) t ∧ Silent ds.length s t := by
  induction ds generalizing p s with
  | nil => exact ⟨s, .nil s, by rwa [List.append_nil], rfl, (List.append_nil _).symm⟩
  | cons d ds ih =>
    obtain ⟨t, ht, hbuild, hsilent⟩ := txPush_builds h d
    obtain ⟨u, hu, hbuild', hsilent'⟩ := ih hbuild
    rw [List.append_assoc, List.singleton_append] at hbuild'
    exact ⟨u, .cons ht hu, hbuild', by rw [List.length_cons, Nat.add_comm]; exact hsilent.trans hsilent'⟩

/-- R91 on the 255 bytes that the serializer can hold: a longer payload is rejected whatever they are. -/
theorem not_encodable_iff : ¬ Encodable p ↔ p.length = 0 ∨ 255 < p.length ∨ (!allAscii (p.take 255)) = true := by
  by_cases hlong : 255 < p.length
  · simp [Encodable, hlong]
  · have hmax : p.length ≤ 255 := Nat.le_of_not_lt hlong
    simp only [List.take_of_length_le hmax, Encodable, hmax, hlong, true_and, false_or, not_and_or, Nat.not_le,
      Nat.lt_one_iff, Bool.not_eq_true, Bool.not_eq_true']

theorem TxBuilding.cnt_eq_zero_iff (h : TxBuilding o p s) : s.txcnt = 0 ↔ p.length = 0 := by
  have hcnt := h.cnt
  constructor
  · intro hzero
    have hzero' : s.txcnt.toNat = 0 := congrArg BitVec.toNat hzero
    omega
  · intro hzero
    bv_omega

/-- R94, R91: after the pushes of a payload, TX_END rejects exactly what `encode` does. -/
theorem TxBuilding.rejects_iff (h : TxBuilding o p s) :
    (s.txcnt == 0 || s.txflags.tooLong || s.txflags.nonAscii) = true ↔ ¬ Encodable p := by
  rw [txEnd_rejects_iff, not_encodable_iff, h.cnt_eq_zero_iff, h.flags, decide_eq_true_eq]

/-- R94, R98: what TX_FRAME leaves when `encode` accepts: READY, with the frame of `encode` to be
read from its start. -/
structure TxReady (o : Byte) (p : List Byte) (s : State) : Prop where
  st : s.txst = .ready
  rd : s.txrd = 0
  flags : s.txflags = TxFlags.clear
  bytes : s.txBytes = frameBytes o p

/-- R94, R98: what TX_FRAME leaves when `encode` rejects: IDLE, with the causes. -/
structure TxRejected (p : List Byte) (s : State) : Prop where
  st : s.txst = .idle
  flags : s.txflags = ⟨true, decide (p.length = 0), decide (255 < p.length), !allAscii (p.take 255)⟩

theorem TxBuilding.txEnd_accepts (h : TxBuilding o p s) (hp : Encodable p) :
    ∃ t, exec (.txEnd 0) s = .next t ∧ TxReady o p t ∧ Silent 1 s t := by
  have hok := Bool.eq_false_iff.mpr fun hbad => h.rejects_iff.mp hbad hp
  obtain ⟨-, hmax, hascii⟩ := hp
  have htake : p.take 255 = p := List.take_of_length_le hmax
  have hcrc : s.txcrc = crc8 (s.txopc :: p) := by rw [h.crc, htake, h.opc]
  have hbytes : s.txBytes = frameBytes o p := h.opc ▸ State.txBytes_eq_frameBytes (htake ▸ h.held) hcrc
  refine ⟨_, exec_of_effect (.txEnd 0 h.st hok), ⟨rfl, rfl, h.flags.trans ?_, hbytes⟩, rfl, rfl⟩
  rw [htake, hascii, decide_eq_false (Nat.not_lt.mpr hmax)]
  rfl

theorem TxBuilding.txEnd_rejects (h : TxBuilding o p s) (hp : ¬ Encodable p) :
    ∃ t, exec (.txEnd 0) s = .next t ∧ TxRejected p t ∧ Silent 1 s t := by
  refine ⟨_, exec_of_effect (.txEndReject 0 h.st (h.rejects_iff.mpr hp)), ⟨rfl, ?_⟩, rfl, rfl⟩
  have hempty : (s.txcnt == 0) = decide (p.length = 0) := by
    rw [beq_eq_decide, decide_eq_decide]
    exact h.cnt_eq_zero_iff
  simp only [State.respond_txflags, h.flags, hempty, Bool.false_or]

/-- The run of TX_FRAME up to its TX_END. -/
theorem txFrame_builds (o : Byte) (p : List Byte) (hwf : s.txbuf.wf) :
    ∃ t, Runs (.txStart o :: p.map Instr.txPush) s t ∧ TxBuilding o p t ∧ Silent (p.length + 1) s t := by
  obtain ⟨t, ht, hbuild, hsilent⟩ := txStart_builds o hwf
  obtain ⟨u, hu, hbuild', hsilent'⟩ := txPushes_build p hbuild
  exact ⟨u, .cons ht hu, hbuild', Nat.add_comm 1 p.length ▸ hsilent.trans hsilent'⟩

theorem txFrame_accepts (hp : Encodable p) (o : Byte) (hwf : s.txbuf.wf) :
    ∃ t, Runs (txFrame o p) s t ∧ TxReady o p t ∧ Silent (p.length + 2) s t := by
  obtain ⟨t, ht, hbuild, hsilent⟩ := txFrame_builds o p hwf
  obtain ⟨u, hu, hready, hsilent'⟩ := hbuild.txEnd_accepts hp
  exact ⟨u, ht.append (.single hu), hready, hsilent.trans hsilent'⟩

theorem txFrame_rejects (hp : ¬ Encodable p) (o : Byte) (hwf : s.txbuf.wf) :
    ∃ t, Runs (txFrame o p) s t ∧ TxRejected p t ∧ Silent (p.length + 2) s t := by
  obtain ⟨t, ht, hbuild, hsilent⟩ := txFrame_builds o p hwf
  obtain ⟨u, hu, hrejected, hsilent'⟩ := hbuild.txEnd_rejects hp
  exact ⟨u, ht.append (.single hu), hrejected, hsilent.trans hsilent'⟩

/-! ## The drain -/

/-- R96 before the last byte: READY and the frame stay, and the next byte's turn comes. -/
theorem txPop_next (hst : s.txst = .ready) (hmore : s.txrd.toNat + 1 < s.txBytes.length) :
    ∃ t, exec (.txPop 0) s = .next t ∧ t.txst = .ready ∧ t.txrd.toNat = s.txrd.toNat + 1 ∧ t.txBytes = s.txBytes ∧
      t.cmdflags = s.cmdflags ∧ t.resps = s.resps ++ [.ofByte (txByte s s.txrd.toNat)] := by
  rw [State.txBytes_length] at hmore
  have hnot : s.txrd.toNat + 1 ≠ 5 + s.txcnt.toNat := Nat.ne_of_lt hmore
  have hsucc : (s.txrd + 1).toNat = s.txrd.toNat + 1 := by bv_omega
  exact ⟨_, exec_of_effect (.txPop 0 hst), (if_neg hnot).trans hst, hsucc, rfl, rfl, rfl⟩

theorem State.txBytes_drop {i : Nat} (h : i < s.txBytes.length) :
    s.txBytes.drop i = txByte s i :: s.txBytes.drop (i + 1) := by
  rw [List.drop_eq_getElem_cons h]
  simp [State.txBytes]

/-- R96: as many TX_POPs as there are bytes left return them in order, and the last one turns the serializer IDLE. -/
theorem txDrain_runs (n : Nat) (hst : s.txst = .ready) (hleft : s.txrd.toNat + (n + 1) = s.txBytes.length) :
    ∃ t, Runs (txDrain (n + 1)) s t ∧ t.txst = .idle ∧ t.cmdflags = s.cmdflags ∧
      t.resps = s.resps ++ (s.txBytes.drop s.txrd.toNat).map Resp.ofByte := by
  induction n generalizing s with
  | zero =>
    refine ⟨_, .single (exec_of_effect (.txPop 0 hst)), if_pos (hleft.trans s.txBytes_length), rfl, ?_⟩
    rw [State.txBytes_drop (by omega), List.drop_of_length_le (Nat.le_of_eq hleft.symm)]
    rfl
  | succ n ih =>
    obtain ⟨t, hpop, hready, hrd, hbytes, hcmd, hresps⟩ := txPop_next hst (by omega)
    obtain ⟨u, hrun, hidle, hcmd', hresps'⟩ := ih hready (by rw [hrd, hbytes]; omega)
    refine ⟨u, .cons hpop hrun, hidle, hcmd'.trans hcmd, ?_⟩
    rw [hresps', hresps, hrd, hbytes, State.txBytes_drop (i := s.txrd.toNat) (by omega), List.map_cons,
      List.append_assoc, List.singleton_append]

theorem txPop_refused (hst : s.txst ≠ .ready) :
    ∃ t, issue (words (txDrain 1)) s = .next t ∧ t.cmdflags.sequence = true ∧ t.resps = s.resps ++ [⟨false, 0x00⟩] :=
  ⟨_, (Runs.single (exec_of_not_permitted (by simpa [permitted] using hst))).issue_eq, rfl, rfl⟩

/-- R97 after an accepted TX_FRAME: of the bits of TXSTAT only READY is set. -/
theorem TxReady.txstat (h : TxReady o p s) : s.txstat = 0x20 := by
  rw [State.txstat, h.st, h.flags]
  rfl

theorem TxReady.drain (h : TxReady o p s) :
    ∃ t, Runs (txDrain (frameBytes o p).length) s t ∧ t.txst = .idle ∧ t.cmdflags = s.cmdflags ∧
      t.resps = s.resps ++ (frameBytes o p).map Resp.ofByte := by
  have hlen : (frameBytes o p).length = (p.length + 4) + 1 := by simp [frameBytes]
  have hrd : s.txrd.toNat = 0 := congrArg BitVec.toNat h.rd
  obtain ⟨t, hrun, hst, hcmd, hresps⟩ := txDrain_runs (p.length + 4) h.st (by rw [h.bytes, hrd, hlen, Nat.zero_add])
  rw [hrd, List.drop_zero, h.bytes] at hresps
  exact ⟨t, hlen ▸ hrun, hst, hcmd, hresps⟩

theorem TxRejected.causes (h : TxRejected p s) :
    s.txflags.invalidPayload = true ∧ (s.txflags.empty = true ↔ p.length = 0) ∧
      (s.txflags.tooLong = true ↔ 255 < p.length) ∧
      (s.txflags.nonAscii = true ↔ ∃ b ∈ p.take 255, b.getLsbD 7 = true) := by
  rw [h.flags]
  exact ⟨rfl, decide_eq_true_iff, decide_eq_true_iff, not_allAscii_iff⟩

end TxFrame

/-- Settles O28: whether `encode` accepts decides which of its two ends TX_FRAME has, and what the drain meets there. -/
theorem serializerRunMatchesEncode : Obligations.SerializerRunMatchesEncode := by
  intro s o p hwf
  by_cases hp : Encodable p
  · have henc := encodeFrame_of_encodable hp o
    obtain ⟨t, hrun, hready, hcmd, hresps⟩ := txFrame_accepts hp o hwf
    refine ⟨_, hrun.issue_eq, hcmd, hresps, fun f hf => ?_, fun hbad => nomatch henc.symm.trans hbad⟩
    cases henc.symm.trans hf
    obtain ⟨u, hdrain, hidle, hcmd', hresps'⟩ := hready.drain
    exact ⟨hready.st, ⟨_, (Runs.single rfl).issue_eq, hready.txstat ▸ rfl⟩,
      _, hdrain.issue_eq, hresps', hidle, hcmd'.trans hcmd, txPop_refused (by simp [State.setInput, hidle])⟩
  · have henc := encodeFrame_of_not_encodable hp o
    obtain ⟨t, hrun, hrejected, hcmd, hresps⟩ := txFrame_rejects hp o hwf
    obtain ⟨hinvalid, hempty, htooLong, hnonAscii⟩ := hrejected.causes
    exact ⟨_, hrun.issue_eq, hcmd, hresps, fun f hf => (nomatch henc.symm.trans hf), fun _ => ⟨hrejected.st, hinvalid,
      hempty, htooLong, hnonAscii, txPop_refused (s := t) (by simp [hrejected.st])⟩⟩

end Sys2Proof.Machine
end

section
/-! Statements of 42_deserializer.md: the commands of the deserializer (R113 to R121), the run of RX_FRAME and its drain
against `decode` (R122), the round trip (R123), and the flags of a corrupted frame (R124). -/

namespace Sys2Proof.Machine

/-! ## The commands -/

/-- Settles O30: the word is the command's encoding (O2), and RX_START has one branch. -/
theorem rxStartBeginsReception : Obligations.RxStartBeginsReception := fun d _ =>
  ⟨decodeOfEncodeIsIdentity (.rxStart d), rfl⟩

theorem bne_eq_decide_ne (a b : Byte) : (a != b) = decide (a ≠ b) := by
  rw [bne, beq_eq_decide, decide_not]

/-- Settles O31: the branches are `Effect`'s, and IDLE is a refusal. -/
theorem rxPushTakesByteByState : Obligations.RxPushTakesByteByState := by
  intro d s
  refine ⟨decodeOfEncodeIsIdentity (.rxPush d), fun hst => ?_, fun hst => ?_, fun hst => ?_, fun hst => ?_,
    fun hst hcnt => ?_, fun hst => ?_, fun hst => ?_, fun hst => ?_⟩
  · exact exec_of_not_permitted (by simp [permitted, hst])
  · exact bne_eq_decide_ne d _ ▸ exec_of_effect (.rxPushPrefix d hst)
  · exact exec_of_effect (.rxPushLen d hst)
  · exact exec_of_effect (.rxPushOpc d hst)
  · exact not_isAscii d ▸ exec_of_effect (.rxPushPayload d hst hcnt)
  · exact exec_of_effect (.rxPushChk d hst)
  · exact bne_eq_decide_ne d _ ▸ bne_eq_decide_ne s.rxchk _ ▸ exec_of_effect (.rxPushSuf d hst)
  · exact exec_of_effect (.rxPushDone d hst)

/-- Settles O32: the branches are `Effect`'s, and IDLE is a refusal. -/
theorem rxEndMarksShortFrame : Obligations.RxEndMarksShortFrame := fun d _ =>
  ⟨decodeOfEncodeIsIdentity (.rxEnd d), fun hst => exec_of_not_permitted (by simp [permitted, hst]),
    fun hst => exec_of_effect (.rxEndDone d hst), fun hst hst' => exec_of_effect (.rxEndShort d hst hst')⟩

/-- R34: each bit of RXSTAT, by the place of its flag. -/
theorem State.getLsbD_rxstat (s : State) (k : Nat) : s.rxstat.getLsbD k =
    (decide (k = 0) && s.rxflags.badPrefix || decide (k = 1) && s.rxflags.badPostfix ||
      decide (k = 2) && s.rxflags.badCrc || decide (k = 3) && s.rxflags.badEncoding ||
      decide (k = 4) && s.rxflags.badDataSize || decide (k = 5) && s.rxst == .done || decide (k = 6) && s.rxValid ||
      decide (k = 7) && s.rxflags.extra) := by
  simp [State.rxstat, RxFlags.bad, getLsbD_bitAt]

/-- R155: the acceptance gate, flag by flag. -/
theorem State.rxValid_iff_flags {s : State} : s.rxValid = true ↔
    s.rxst = .done ∧ s.rxflags.badPrefix = false ∧ s.rxflags.badPostfix = false ∧ s.rxflags.badCrc = false ∧
      s.rxflags.badEncoding = false ∧ s.rxflags.badDataSize = false :=
  State.rxValid_iff.trans (and_congr_right fun _ => RxFlags.anyBad_eq_false)

theorem State.getLsbD_rxstat_valid (s : State) : s.rxstat.getLsbD 6 = s.rxValid := by
  rw [State.getLsbD_rxstat]
  simp

/-- Settles O33: each bit of RXSTAT stands in its place, and VALID is R155's gate. -/
theorem rxStatReturnsDeserializerStatus : Obligations.RxStatReturnsDeserializerStatus := by
  intro d s
  refine ⟨decodeOfEncodeIsIdentity (.rxStat d), s.rxstat, rfl, ?_⟩
  rw [State.getLsbD_rxstat_valid, State.rxValid_iff_flags]
  simp only [State.getLsbD_rxstat]
  refine ⟨by simp, by simp, by simp, by simp, by simp, by simp; rfl, by simp, by simp⟩

/-- R151: the codes of the set flags. -/
theorem RxFlags.mem_codes {f : RxFlags} {c : Byte} : c ∈ f.codes ↔
    (c = 1 ∧ f.badPrefix = true) ∨ (c = 2 ∧ f.badPostfix = true) ∨ (c = 3 ∧ f.badCrc = true) ∨
      (c = 4 ∧ f.badEncoding = true) ∨ (c = 5 ∧ f.badDataSize = true) := by
  have hcode (b : Bool) (k : Byte) : c ∈ (if b then [k] else []) ↔ c = k ∧ b = true := by cases b <;> simp
  simp only [RxFlags.codes, List.mem_append, hcode, or_assoc]

theorem RxFlags.codes_eq_nil {f : RxFlags} : f.codes = [] ↔
    f.badPrefix = false ∧ f.badPostfix = false ∧ f.badCrc = false ∧ f.badEncoding = false ∧ f.badDataSize = false := by
  simp [RxFlags.codes]

/-- R154 with ERR_SELECT = ANY: a draw from a non-empty list is one of its codes. -/
theorem primaryByDraw_mem_codes (draw : Nat) {f : RxFlags} (h : f.codes ≠ []) : primaryByDraw draw f ∈ f.codes := by
  have hlt : draw % f.codes.length < f.codes.length := Nat.mod_lt _ (List.length_pos_iff.mpr h)
  rw [primaryByDraw, List.getD_eq_getElem _ _ hlt]
  exact List.getElem_mem hlt

/-- Settles O34: R154's chain under PRIORITY; under ANY the code drawn is one of the set flags', or there is none. -/
theorem rxErrReturnsPrimaryCode : Obligations.RxErrReturnsPrimaryCode := by
  intro d s
  refine ⟨decodeOfEncodeIsIdentity (.rxErr d), primary s.errDraw s.rxflags, rfl, fun _ => rfl, ?_⟩
  cases hsel : errSelect with
  | priority => exact primary_of_priority hsel _ _
  | any =>
    dsimp only
    rw [primary_of_any hsel]
    by_cases hnone : s.rxflags.codes = []
    · exact .inl ⟨by simp [primaryByDraw, hnone], RxFlags.codes_eq_nil.mp hnone⟩
    · exact .inr (RxFlags.mem_codes.mp (primaryByDraw_mem_codes _ hnone))

/-- Settles O35: acceptance is R155's gate, which is what both commands' rules ask for. -/
theorem acceptedLengthAndOpcodeReadOut : Obligations.AcceptedLengthAndOpcodeReadOut := by
  intro d s accepted
  have hv : s.rxValid = true ↔ accepted := State.rxValid_iff_flags
  refine ⟨decodeOfEncodeIsIdentity (.rxRdlen d), decodeOfEncodeIsIdentity (.rxRdopc d), fun h => ?_, fun h => ?_⟩
  · exact ⟨exec_of_effect (.rxRdlen d (hv.mpr h)), exec_of_effect (.rxRdopc d (hv.mpr h))⟩
  · have hrefused : s.rxValid = false := Bool.eq_false_iff.mpr (mt hv.mp h)
    simp only [List.forall_mem_cons, List.not_mem_nil, false_imp_iff, implies_true, and_true]
    exact ⟨exec_of_not_permitted hrefused, exec_of_not_permitted hrefused⟩

/-- Settles O36: acceptance is R155's gate, and with an index below RXLEN it is what permits RX_POP. -/
theorem rxPopReturnsNextPayloadByte : Obligations.RxPopReturnsNextPayloadByte := by
  intro d s accepted
  have hv : s.rxValid = true ↔ accepted := State.rxValid_iff_flags
  refine ⟨decodeOfEncodeIsIdentity (.rxPop d), fun h hrd => exec_of_effect (.rxPop d (hv.mpr h) hrd), fun h => ?_⟩
  refine exec_of_not_permitted (Bool.eq_false_iff.mpr fun hp => h ?_)
  simpa [permitted, hv] using hp

/-! ## `decode`, by the fields of its input -/

/-- No payload is read before the opcode. -/
theorem framePayload_of_short_header {inp : List Byte} (h : inp.length ≤ 3) : framePayload inp = [] := by
  rw [framePayload, List.drop_eq_nil_of_le h, List.take_nil]

theorem decodeFrame_opc (inp : List Byte) : (decodeFrame inp).opc = inp.getD 2 0 := by
  by_cases h : 3 ≤ inp.length
  · simp [decodeFrame, h]
  · have hnone : inp[2]? = none := List.getElem?_eq_none (by omega)
    simp [decodeFrame, h, hnone]

theorem decodeFrame_payload (inp : List Byte) : (decodeFrame inp).payload = framePayload inp := by
  have hpayload : (decodeFrame inp).payload =
      if 3 ≤ inp.length then (inp.drop 3).take (decodeFrame inp).len.toNat else [] := rfl
  rw [hpayload, decodeFrame_len]
  split_ifs with h
  · rfl
  · exact (framePayload_of_short_header (by omega)).symm

/-- R111: the flags of an input that ends before its frame does. -/
theorem decodeFrame_flags_of_short {inp : List Byte} (hpos : 1 ≤ inp.length) (h : inp.length < 5 + frameLen inp) :
    (decodeFrame inp).flags =
      { badPrefix := inp.getD 0 0 != prefixByte
        badPostfix := false
        badCrc := false
        badEncoding := !allAscii (framePayload inp)
        badDataSize := true
        extra := false } := by
  have hlen : (if 2 ≤ inp.length then inp.getD 1 0 else 0) = inp.getD 1 0 := decodeFrame_len inp
  have hshort : decide (5 + (inp.getD 1 0).toNat ≤ inp.length) = false := decide_eq_false (Nat.not_le.mpr h)
  simp only [decodeFrame, hlen, hshort, framePayload, frameLen]
  by_cases h3 : 3 ≤ inp.length
  · simp [hpos, h3]
  · simp [hpos, h3, List.drop_eq_nil_of_le (show inp.length ≤ 3 by omega)]

section Fields
variable {a l o c f : Byte} {p x : List Byte}

/-- Before the payload is complete, all that follows the opcode is payload. -/
theorem framePayload_of_le (h : p.length ≤ l.toNat) : framePayload (a :: l :: o :: p) = p :=
  List.take_of_length_le h

theorem framePayload_of_eq (h : p.length = l.toNat) (x : List Byte) : framePayload (a :: l :: o :: (p ++ x)) = p :=
  List.take_left' h

/-- R111: the flags of an input that holds a whole frame, by the fields of the frame. -/
theorem decodeFrame_flags_of_fields (h : p.length = l.toNat) :
    (decodeFrame (a :: l :: o :: (p ++ c :: f :: x))).flags =
      { badPrefix := a != prefixByte
        badPostfix := f != suffixByte
        badCrc := c != crc8 (o :: p)
        badEncoding := !allAscii p
        badDataSize := l == 0
        extra := decide (0 < x.length) } := by
  have hL : frameLen (a :: l :: o :: (p ++ c :: f :: x)) = p.length := h.symm
  have hlength : (a :: l :: o :: (p ++ c :: f :: x)).length = 5 + p.length + x.length := by simp; omega
  have hchk : (p ++ c :: f :: x).getD p.length 0 = c := by simp
  have hsuf : (p ++ c :: f :: x).getD (p.length + 1) 0 = f := by simp
  rw [decodeFrame_flags_of_whole (by omega), framePayload_of_eq h, hL, hlength, Nat.add_comm 4, Nat.add_comm 3]
  simp only [List.getD_cons_zero, List.getD_cons_succ, hchk, hsuf, Nat.lt_add_right_iff_pos]

end Fields

/-! ## The run of RX_FRAME -/

/-- The deserializer with these fields received, payload bytes among them, and none read out. -/
structure RxHolds (st : RxSt) (f : RxFlags) (l o : Byte) (p : List Byte) (s : State) : Prop where
  st : s.rxst = st
  flags : s.rxflags = f
  len : s.rxlen = l
  opc : s.rxopc = o
  held : s.rxbuf.slice s.rxcnt.toNat = p
  rd : s.rxrd = 0

/-- R114: the deserializer after the header and the payload bytes p, of which there are at most L. -/
structure RxPayload (a l o : Byte) (p : List Byte) (s : State) : Prop extends
    RxHolds (if p.length = l.toNat then .atChk else .atPayload)
      ⟨a != prefixByte, false, false, !allAscii p, l == 0, false⟩ l o p s where
  wf : s.rxbuf.wf
  crc : s.rxcrc = crc8 (o :: p)

/-- R115: the pushes have left what RX_END makes the result r: the frame is in, or it is one cut short. -/
def RxEnding (r : FrameResult) (s : State) : Prop :=
  ∃ st f, RxHolds st f r.len r.opc r.payload s ∧
    (st = .done ∧ f = r.flags ∨ (st ≠ .idle ∧ st ≠ .done) ∧ { f with badDataSize := true } = r.flags)

/-- R122: the deserializer holds the result of `decode`. -/
def RxReceived (r : FrameResult) (s : State) : Prop := RxHolds .done r.flags r.len r.opc r.payload s

section RxFrame
variable {a l o : Byte} {p : List Byte} {st : RxSt} {f : RxFlags} {s : State}

theorem RxHolds.cnt (h : RxHolds st f l o p s) : s.rxcnt.toNat = p.length := by
  rw [← h.held, Memory.slice_length]

theorem rxHeader_runs (a l o : Byte) (hwf : s.rxbuf.wf) :
    ∃ t, Runs (.rxStart 0 :: [a, l, o].map Instr.rxPush) s t ∧ RxPayload a l o [] t ∧ Silent 4 s t := by
  refine ⟨_, .cons rfl (.cons rfl (.cons rfl (.single rfl))), ?_, rfl, by simp [State.respond, List.replicate]⟩
  exact {
    st := by simp [State.respond, BitVec.toNat_eq, eq_comm]
    flags := by simp [State.respond, RxFlags.clear]
    len := rfl
    opc := rfl
    held := rfl
    rd := rfl
    wf := hwf
    crc := (crc8_single o).symm }

theorem rxPush_payload (h : RxPayload a l o p s) (hlt : p.length < l.toNat) (d : Byte) :
    ∃ t, exec (.rxPush d) s = .next t ∧ RxPayload a l o (p ++ [d]) t ∧ Silent 1 s t := by
  have hst : s.rxst = .atPayload := h.st.trans (if_neg (Nat.ne_of_lt hlt))
  have hcnt := h.cnt
  have hne : s.rxcnt ≠ 255 := by bv_omega
  refine ⟨_, exec_of_effect (.rxPushPayload d hst hne), ?_, rfl, rfl⟩
  exact {
    st := by simp only [State.respond_rxst, hcnt, h.len, List.length_append, List.length_singleton]
    flags := by
      simp only [State.respond_rxflags, h.flags, allAscii_append, allAscii_cons, allAscii_nil, Bool.and_true,
        Bool.not_and]
    len := h.len
    opc := h.opc
    held := by
      simp only [State.respond_rxbuf, State.respond_rxcnt, toNat_add_one_of_ne hne, Memory.slice_write h.wf, h.held]
    rd := h.rd
    wf := write_count_wf h.wf hne d
    crc := by simp only [State.respond_rxcrc, h.crc, ← List.cons_append, crc8_append_single] }

theorem rxPushes_payload (ds : List Byte) (h : RxPayload a l o p s) (hle : p.length + ds.length ≤ l.toNat) :
    ∃ t, Runs (ds.map Instr.rxPush) s t ∧ RxPayload a l o (p ++ ds) t ∧ Silent ds.length s t := by
  induction ds generalizing p s with
  | nil => exact ⟨s, .nil s, by rwa [List.append_nil], rfl, (List.append_nil _).symm⟩
  | cons d ds ih =>
    rw [List.length_cons] at hle
    obtain ⟨t, ht, hpay, hsilent⟩ := rxPush_payload h (by omega) d
    obtain ⟨u, hu, hpay', hsilent'⟩ := ih hpay (by rw [List.length_append, List.length_singleton]; omega)
    rw [List.append_assoc, List.singleton_append] at hpay'
    exact ⟨u, .cons ht hu, hpay', by rw [List.length_cons, Nat.add_comm]; exact hsilent.trans hsilent'⟩

/-- R114, R179: past the frame every byte is EXTRA and nothing else. -/
theorem rxPushes_done (ds : List Byte) (h : RxHolds .done f l o p s) :
    ∃ t, Runs (ds.map Instr.rxPush) s t ∧ RxHolds .done { f with extra := f.extra || decide (0 < ds.length) } l o p t ∧
      Silent ds.length s t := by
  induction ds generalizing f s with
  | nil => exact ⟨s, .nil s, by simpa using h, rfl, (List.append_nil _).symm⟩
  | cons d ds ih =>
    have hpush : RxHolds .done { f with extra := true } l o p
        (State.respond { s with rxflags := { s.rxflags with extra := true } } .none) :=
      { h with flags := by rw [← h.flags]; rfl }
    obtain ⟨u, hu, hdone, hsilent⟩ := ih hpush
    refine ⟨u, .cons (exec_of_effect (.rxPushDone d h.st)) hu, by simpa using hdone, hsilent.1, ?_⟩
    rw [hsilent.2]
    simp [List.replicate_succ]

/-- R115: the frame is marked short unless it is in. -/
theorem RxEnding.rxEnd {r : FrameResult} (h : RxEnding r s) :
    ∃ t, exec (.rxEnd 0) s = .next t ∧ RxReceived r t ∧ Silent 1 s t := by
  obtain ⟨st, f, h, ⟨rfl, rfl⟩ | ⟨⟨hidle, hdone⟩, hflags⟩⟩ := h
  · exact ⟨_, exec_of_effect (.rxEndDone 0 h.st), { h with }, rfl, rfl⟩
  · refine ⟨_, exec_of_effect (.rxEndShort 0 (h.st ▸ hidle) (h.st ▸ hdone)), ?_, rfl, rfl⟩
    exact { h with
      st := rfl
      flags := by rw [← hflags, ← h.flags]; rfl }

/-- R115: an input that has begun and ends before its frame does, with its fields held in a state before DONE. -/
theorem RxHolds.ending_of_short {inp : List Byte} {z : Bool}
    (h : RxHolds st ⟨inp.getD 0 0 != prefixByte, false, false, !allAscii (framePayload inp), z, false⟩ (inp.getD 1 0)
      (inp.getD 2 0) (framePayload inp) s)
    (hst : st ≠ .idle ∧ st ≠ .done) (hpos : 1 ≤ inp.length) (hshort : inp.length < 5 + frameLen inp) :
    RxEnding (decodeFrame inp) s := by
  rw [RxEnding, decodeFrame_len, decodeFrame_opc, decodeFrame_payload, decodeFrame_flags_of_short hpos hshort]
  exact ⟨st, _, h, .inr ⟨hst, rfl⟩⟩

theorem rxPush_chk (h : RxPayload a l o p s) (hp : p.length = l.toNat) (c : Byte) :
    ∃ t, exec (.rxPush c) s = .next t ∧
      RxHolds .atSuf ⟨a != prefixByte, false, false, !allAscii p, l == 0, false⟩ l o p t ∧ t.rxchk = c ∧
      t.rxcrc = crc8 (o :: p) ∧ Silent 1 s t :=
  ⟨_, exec_of_effect (.rxPushChk c (h.st.trans (if_pos hp))), { h with st := rfl }, rfl, h.crc, rfl, rfl⟩

theorem rxPush_suf (h : RxHolds .atSuf f l o p s) (d : Byte) :
    ∃ t, exec (.rxPush d) s = .next t ∧
      RxHolds .done { f with
        badPostfix := f.badPostfix || d != suffixByte
        badCrc := f.badCrc || s.rxchk != s.rxcrc } l o p t ∧ Silent 1 s t :=
  ⟨_, exec_of_effect (.rxPushSuf d h.st), { h with st := rfl, flags := by rw [← h.flags]; rfl }, rfl, rfl⟩

/-- R114 after the payload: the checksum, the suffix, at which both are judged, and what is past the frame. -/
theorem rxPushes_trailer (h : RxPayload a l o p s) (hp : p.length = l.toNat) (c : Byte) (x : List Byte) :
    ∃ t, Runs ((c :: x).map Instr.rxPush) s t ∧ RxEnding (decodeFrame (a :: l :: o :: (p ++ c :: x))) t ∧
      Silent (c :: x).length s t := by
  obtain ⟨t, ht, hsuf, hchk, hcrc, hsilent⟩ := rxPush_chk h hp c
  match x with
  | [] =>
    refine ⟨t, .single ht, RxHolds.ending_of_short (inp := a :: l :: o :: (p ++ [c]))
      ((framePayload_of_eq hp [c]).symm ▸ hsuf) (by simp) (by simp) ?_, hsilent⟩
    simp [frameLen]
    omega
  | d :: x =>
    obtain ⟨u, hu, hdone, hsilent'⟩ := rxPush_suf hsuf d
    rw [hchk, hcrc] at hdone
    obtain ⟨v, hv, hdone', hsilent''⟩ := rxPushes_done x hdone
    refine ⟨v, .cons ht (.cons hu hv), ⟨.done, _, ?_, .inl ⟨rfl, rfl⟩⟩, ?_⟩
    · rw [decodeFrame_len, decodeFrame_opc, decodeFrame_payload, framePayload_of_eq hp, decodeFrame_flags_of_fields hp]
      exact hdone'
    · rw [show (c :: d :: x).length = 1 + 1 + x.length by simp; omega]
      exact (hsilent.trans hsilent').trans hsilent''

/-- R114 from the opcode on: what the bytes after it leave, by how many there are. -/
theorem rxPushes_body (h : RxPayload a l o [] s) (rest : List Byte) :
    ∃ t, Runs (rest.map Instr.rxPush) s t ∧ RxEnding (decodeFrame (a :: l :: o :: rest)) t ∧
      Silent rest.length s t := by
  by_cases hle : rest.length ≤ l.toNat
  · obtain ⟨t, ht, hpay, hsilent⟩ := rxPushes_payload rest h (by simpa using hle)
    refine ⟨t, ht, RxHolds.ending_of_short (inp := a :: l :: o :: rest)
      ((framePayload_of_le hle).symm ▸ hpay.toRxHolds) ?_ (by simp) ?_, hsilent⟩
    · split_ifs <;> simp
    · simp [frameLen]
      omega
  · obtain ⟨p, c, x, rfl, hp⟩ : ∃ p c x, rest = p ++ c :: x ∧ p.length = l.toNat :=
      ⟨rest.take l.toNat, rest[l.toNat], rest.drop (l.toNat + 1), by simp, by simp; omega⟩
    obtain ⟨t, ht, hpay, hsilent⟩ := rxPushes_payload p h (by simp [hp])
    obtain ⟨u, hu, hend, hsilent'⟩ := rxPushes_trailer hpay hp c x
    rw [List.map_append, List.length_append]
    exact ⟨u, ht.append hu, hend, hsilent.trans hsilent'⟩

/-- The run of RX_FRAME up to its RX_END. -/
theorem rxPushes_ending (inp : List Byte) (hwf : s.rxbuf.wf) :
    ∃ t, Runs (.rxStart 0 :: inp.map Instr.rxPush) s t ∧ RxEnding (decodeFrame inp) t ∧
      Silent (inp.length + 1) s t := by
  match inp with
  | [] => exact ⟨_, .single rfl, ⟨.atPrefix, _, ⟨rfl, rfl, rfl, rfl, rfl, rfl⟩, .inr ⟨by simp, rfl⟩⟩, rfl, rfl⟩
  | [a] =>
    refine ⟨_, .cons rfl (.single rfl), RxHolds.ending_of_short (st := .atLen) (z := false)
      ⟨rfl, rfl, rfl, rfl, rfl, rfl⟩ (by simp) (by simp) (Nat.lt_add_right _ (by simp)), rfl, ?_⟩
    simp [State.respond, List.replicate]
  | [a, l] =>
    have hnone : framePayload [a, l] = [] := framePayload_of_short_header (by simp)
    refine ⟨_, .cons rfl (.cons rfl (.single rfl)), RxHolds.ending_of_short (st := .atOpc) (z := false)
      (hnone.symm ▸ ⟨rfl, rfl, rfl, rfl, rfl, rfl⟩) (by simp) (by simp) (Nat.lt_add_right _ (by simp)), rfl, ?_⟩
    simp [State.respond, List.replicate]
  | a :: l :: o :: rest =>
    obtain ⟨t, ht, hpay, hsilent⟩ := rxHeader_runs a l o hwf
    obtain ⟨u, hu, hend, hsilent'⟩ := rxPushes_body hpay rest
    refine ⟨u, ht.append hu, hend, ?_⟩
    rw [show (a :: l :: o :: rest).length + 1 = 4 + rest.length by simp; omega]
    exact hsilent.trans hsilent'

/-- R122: RX_FRAME ends with the result of `decode`. -/
theorem rxFrame_runs (inp : List Byte) (hwf : s.rxbuf.wf) :
    ∃ t, Runs (rxFrame inp) s t ∧ RxReceived (decodeFrame inp) t ∧ Silent (inp.length + 2) s t := by
  obtain ⟨t, ht, hend, hsilent⟩ := rxPushes_ending inp hwf
  obtain ⟨u, hu, hreceived, hsilent'⟩ := hend.rxEnd
  exact ⟨u, ht.append (.single hu), hreceived, hsilent.trans hsilent'⟩

end RxFrame

/-! ## The drain -/

section RxDrain
variable {s : State}

theorem Memory.slice_drop (m : Memory) {n i : Nat} (h : i < n) :
    (m.slice n).drop i = m.read i :: (m.slice n).drop (i + 1) := by
  rw [List.drop_eq_getElem_cons (by rwa [Memory.slice_length]), Memory.slice_getElem]

/-- R121: as many RX_POPs as there are payload bytes left return them in order. -/
theorem rxDrain_runs (n : Nat) (hv : s.rxValid = true) (hleft : s.rxrd.toNat + n = s.rxlen.toNat) :
    ∃ t, Runs (rxDrain n) s t ∧ t.rxrd = t.rxlen ∧ t.cmdflags = s.cmdflags ∧
      t.resps = s.resps ++ ((s.rxbuf.slice s.rxlen.toNat).drop s.rxrd.toNat).map Resp.ofByte := by
  induction n generalizing s with
  | zero =>
    refine ⟨s, .nil s, BitVec.eq_of_toNat_eq hleft, rfl, ?_⟩
    have hall : (s.rxbuf.slice s.rxlen.toNat).length ≤ s.rxrd.toNat := by
      rw [Memory.slice_length]
      exact hleft.ge
    rw [List.drop_of_length_le hall, List.map_nil, List.append_nil]
  | succ n ih =>
    have hrd : s.rxrd.toNat < s.rxlen.toNat := by omega
    have hsucc : (s.rxrd + 1).toNat = s.rxrd.toNat + 1 := by bv_omega
    obtain ⟨u, hrun, hend, hcmd, hresps⟩ :=
      ih (s := State.respond { s with rxrd := s.rxrd + 1 } (.ofByte (s.rxbuf.read s.rxrd.toNat))) hv
        (by simp only [State.respond_rxrd, State.respond_rxlen, hsucc]; omega)
    refine ⟨u, .cons (exec_of_effect (.rxPop 0 hv hrd)) hrun, hend, hcmd, ?_⟩
    rw [hresps, Memory.slice_drop _ hrd]
    simp only [State.respond_resps, State.respond_rxrd, State.respond_rxbuf, State.respond_rxlen, hsucc, List.map_cons,
      List.append_assoc, List.singleton_append]

theorem rxPop_refused (h : s.rxrd = s.rxlen) :
    ∃ t, issue (words (rxDrain 1)) s = .next t ∧ t.cmdflags.sequence = true ∧ t.resps = s.resps ++ [⟨false, 0x00⟩] :=
  ⟨_, (Runs.single (exec_of_not_permitted (by simp [permitted, h]))).issue_eq, rfl, rfl⟩

variable {inp : List Byte}

theorem RxReceived.rxValid (h : RxReceived (decodeFrame inp) s) : s.rxValid = (decodeFrame inp).valid := by
  rw [State.rxValid, h.st, h.flags]
  rfl

/-- R111: an accepted input holds all of its payload. -/
theorem decodeFrame_payload_length (hv : (decodeFrame inp).valid = true) :
    (decodeFrame inp).payload.length = (decodeFrame inp).len.toNat := by
  obtain ⟨hwhole, -⟩ := (decodeFrame_valid_iff inp).mp hv
  rw [decodeFrame_payload, decodeFrame_len, framePayload, List.length_take, List.length_drop]
  change min (frameLen inp) _ = frameLen inp
  omega

/-- R122: the drain of an accepted frame returns its payload. -/
theorem RxReceived.drain (h : RxReceived (decodeFrame inp) s) (hv : (decodeFrame inp).valid = true) :
    ∃ t, Runs (rxDrain (decodeFrame inp).len.toNat) s t ∧ t.rxrd = t.rxlen ∧ t.cmdflags = s.cmdflags ∧
      t.resps = s.resps ++ (decodeFrame inp).payload.map Resp.ofByte := by
  have hlen : s.rxcnt.toNat = s.rxlen.toNat := by rw [h.cnt, decodeFrame_payload_length hv, h.len]
  obtain ⟨t, hrun, hend, hcmd, hresps⟩ := rxDrain_runs s.rxlen.toNat (h.rxValid.trans hv) (by simp [h.rd])
  refine ⟨t, h.len ▸ hrun, hend, hcmd, ?_⟩
  rw [hresps, h.rd, ← hlen, h.held]
  rfl

/-- R122, R155: of a frame that is not accepted nothing is read out. -/
theorem rxReads_refused (hv : s.rxValid = false) :
    ∀ i ∈ [Instr.rxPop 0, .rxRdlen 0, .rxRdopc 0], exec i s = raiseSequence s := by
  simp only [List.forall_mem_cons, List.not_mem_nil, false_imp_iff, implies_true, and_true]
  exact ⟨exec_of_not_permitted (by simp [permitted, hv]), exec_of_not_permitted hv, exec_of_not_permitted hv⟩

end RxDrain

/-- Settles O37: RX_FRAME ends with the result of `decode`, whose verdict decides what is read out. -/
theorem deserializerRunMatchesDecode : Obligations.DeserializerRunMatchesDecode := by
  intro s inp hwf r
  obtain ⟨t, hrun, hreceived, hcmd, hresps⟩ := rxFrame_runs inp hwf
  refine ⟨_, hrun.issue_eq, hcmd, hresps, hreceived.st, hreceived.flags, hreceived.len, hreceived.opc,
    hreceived.cnt ▸ hreceived.held, ⟨_, t.rxstat, (Runs.single rfl).issue_eq, rfl, ?_⟩, fun hv => ?_, fun hv => ?_⟩
  · exact t.getLsbD_rxstat_valid.trans hreceived.rxValid
  · obtain ⟨u, hdrain, hend, hcmd', hresps'⟩ := hreceived.drain hv
    exact ⟨_, hdrain.issue_eq, hresps', decodeFrame_payload_length hv, hcmd'.trans hcmd,
      rxPop_refused (s := u.setInput []) hend⟩
  · exact rxReads_refused (hreceived.rxValid.trans hv)

/-! ## The round trip -/

/-- R91: `encode` answers a frame only where its preconditions hold, and it is that payload's. -/
theorem encodeFrame_eq_ok {o : Byte} {p fr : List Byte} (h : encodeFrame o p = .ok fr) :
    Encodable p ∧ fr = frameBytes o p := by
  by_cases hp : Encodable p
  · rw [encodeFrame_of_encodable hp] at h
    exact ⟨hp, (EncodeResult.ok.inj h).symm⟩
  · exact nomatch (encodeFrame_of_not_encodable hp o).symm.trans h

/-- The fields of the frame, the header apart (R13). -/
theorem frameBytes_eq (o : Byte) (p : List Byte) :
    frameBytes o p = prefixByte :: BitVec.ofNat 8 p.length :: o :: (p ++ [crc8 (o :: p), suffixByte]) := by
  simp [frameBytes]

theorem frameBytes_length (o : Byte) (p : List Byte) : (frameBytes o p).length = 5 + p.length := by
  simp [frameBytes_eq]
  omega

/-- The length byte of a payload of 1 to 255 bytes says how many there are. -/
theorem toNat_lengthByte {p : List Byte} (hmax : p.length ≤ 255) : (BitVec.ofNat 8 p.length).toNat = p.length :=
  Nat.mod_eq_of_lt (Nat.lt_succ_of_le hmax)

/-- R111: with the right length byte and nothing past the frame, four flags are left to decide, one per field. -/
theorem decodeFrame_flags_of_right_length {a o c f : Byte} {p : List Byte} (hpos : 1 ≤ p.length)
    (hmax : p.length ≤ 255) :
    (decodeFrame (a :: BitVec.ofNat 8 p.length :: o :: (p ++ [c, f]))).flags =
      { badPrefix := a != prefixByte
        badPostfix := f != suffixByte
        badCrc := c != crc8 (o :: p)
        badEncoding := !allAscii p
        badDataSize := false
        extra := false } := by
  have hlen := toNat_lengthByte hmax
  have hzero : (BitVec.ofNat 8 p.length == 0) = false := beq_eq_false_iff_ne.mpr (by bv_omega)
  rw [decodeFrame_flags_of_fields hlen.symm, hzero]
  rfl

theorem FrameResult.eq_mk {r : FrameResult} {f : RxFlags} {v : Bool} {l o : Byte} {p : List Byte} (hf : r.flags = f)
    (hv : r.valid = v) (hl : r.len = l) (ho : r.opc = o) (hp : r.payload = p) : r = ⟨f, v, l, o, p⟩ := by
  subst hf hv hl ho hp
  rfl

/-- R123: `decode` undoes `encode`. -/
theorem decodeFrame_frameBytes (o : Byte) {p : List Byte} (hp : Encodable p) :
    decodeFrame (frameBytes o p) = ⟨RxFlags.clear, true, BitVec.ofNat 8 p.length, o, p⟩ := by
  obtain ⟨hpos, hmax, hascii⟩ := hp
  have hflags : (decodeFrame (frameBytes o p)).flags = RxFlags.clear := by
    rw [frameBytes_eq, decodeFrame_flags_of_right_length hpos hmax, hascii]
    simp [RxFlags.clear]
  have hvalid : (decodeFrame (frameBytes o p)).valid = true := by
    rw [decodeFrame_valid_iff_anyBad, hflags]
    rfl
  have hpayload : (decodeFrame (frameBytes o p)).payload = p := by
    rw [decodeFrame_payload, frameBytes_eq, framePayload_of_eq (toNat_lengthByte hmax).symm]
  exact FrameResult.eq_mk hflags hvalid (decodeFrame_len _) (decodeFrame_opc _) hpayload

/-- R47: the serializer's commands do not touch RXBUF. -/
theorem Runs.rxbuf_eq {is : List Instr} {s t : State} (h : Runs is s t) (htx : ∀ i ∈ is, isTxCommand i = true) :
    t.rxbuf = s.rxbuf := by
  induction h with
  | nil => rfl
  | @cons i is s t u hexec _ ih =>
    obtain ⟨hi, his⟩ := List.forall_mem_cons.mp htx
    have hstep : t.rxbuf = s.rxbuf :=
      (effect_of_exec hexec).rxbuf_eq (by rintro d rfl; cases hi) (by rintro d rfl; cases hi)
    exact (ih his).trans hstep

theorem isTxCommand_of_mem_txRun {o : Byte} {p : List Byte} {n : Nat} :
    ∀ i ∈ txFrame o p ++ txDrain n, isTxCommand i = true := by
  intro i hi
  simp only [txFrame, txDrain, List.mem_append, List.mem_singleton, List.mem_map, List.mem_replicate] at hi
  obtain ((rfl | ⟨b, -, rfl⟩) | rfl) | ⟨-, rfl⟩ := hi <;> rfl

/-- R98: TX_FRAME of an accepted payload and the drain of the whole frame. -/
theorem txRun_returns_frameBytes {s : State} (o : Byte) {p : List Byte} (hp : Encodable p) (hwf : s.txbuf.wf) :
    ∃ t, Runs (txFrame o p ++ txDrain (frameBytes o p).length) s t ∧ t.rxbuf = s.rxbuf ∧ t.cmdflags = s.cmdflags ∧
      t.resps = s.resps ++ List.replicate (p.length + 2) .none ++ (frameBytes o p).map Resp.ofByte := by
  obtain ⟨t, hframe, hready, hcmd, hresps⟩ := txFrame_accepts hp o hwf
  obtain ⟨u, hdrain, -, hcmd', hresps'⟩ := hready.drain
  have hrun := hframe.append hdrain
  exact ⟨u, hrun, hrun.rxbuf_eq isTxCommand_of_mem_txRun, hcmd'.trans hcmd, hresps ▸ hresps'⟩

/-- R122, R123: RX_FRAME of an accepted payload's frame and the drain of that payload. -/
theorem rxRun_returns_payload {s : State} (o : Byte) {p : List Byte} (hp : Encodable p) (hwf : s.rxbuf.wf) :
    ∃ t, Runs (rxFrame (frameBytes o p) ++ rxDrain p.length) s t ∧ t.cmdflags = s.cmdflags ∧
      t.resps = s.resps ++ List.replicate ((frameBytes o p).length + 2) .none ++ p.map Resp.ofByte := by
  have hdecode := decodeFrame_frameBytes o hp
  obtain ⟨t, hframe, hreceived, hcmd, hresps⟩ := rxFrame_runs (frameBytes o p) hwf
  obtain ⟨u, hdrain, -, hcmd', hresps'⟩ := hreceived.drain (by rw [hdecode])
  simp only [hdecode, toNat_lengthByte hp.2.1] at hdrain hresps'
  exact ⟨u, hframe.append hdrain, hcmd'.trans hcmd, hresps ▸ hresps'⟩

/-- Settles O40: `decode` undoes `encode`, the bytes popped are the frame, and its run returns the payload. -/
theorem roundTripReproducesPayload : Obligations.RoundTripReproducesPayload := by
  intro o p fr henc
  obtain ⟨hp, rfl⟩ := encodeFrame_eq_ok henc
  refine ⟨decodeFrame_frameBytes o hp, fun s htx hrx => ?_⟩
  obtain ⟨t, hrun, hbuf, hcmd, hresps⟩ := txRun_returns_frameBytes o hp htx
  refine ⟨_, hrun.issue_eq, ?_⟩
  intro popped
  have hpopped : popped = frameBytes o p := by
    show (t.resps.drop (s.resps.length + p.length + 2)).map Resp.data = _
    rw [hresps, List.drop_left' (by simp [Nat.add_assoc]), List.map_map]
    exact List.map_id _
  rw [hpopped]
  obtain ⟨u, hrun', hcmd', hresps'⟩ := rxRun_returns_payload (s := t.setInput []) o hp (hbuf ▸ hrx)
  exact ⟨_, hrun'.issue_eq, hcmd'.trans hcmd, hresps'⟩

/-! ## Corrupted frames -/

/-- Settles O43: the fields of the frame are intact but for the sentinel changed. -/
theorem sentinelCorruptionIsReportedAlone : Obligations.SentinelCorruptionIsReportedAlone := by
  intro o p fr b henc
  obtain ⟨⟨hpos, hmax, hascii⟩, rfl⟩ := encodeFrame_eq_ok henc
  constructor
  · intro hb f
    have hframe : (frameBytes o p).set 0 b =
        b :: BitVec.ofNat 8 p.length :: o :: (p ++ [crc8 (o :: p), suffixByte]) := by
      rw [frameBytes_eq, List.set_cons_zero]
    have hf : f = ⟨true, false, false, false, false, false⟩ := by
      simp only [f, hframe, decodeFrame_flags_of_right_length hpos hmax, hascii]
      simpa using hb
    exact ⟨hf, by rw [hf]; rfl⟩
  · intro hb f
    have hframe : (frameBytes o p).set ((frameBytes o p).length - 1) b =
        prefixByte :: BitVec.ofNat 8 p.length :: o :: (p ++ [crc8 (o :: p), b]) := by
      rw [frameBytes_length, show 5 + p.length - 1 = p.length + 1 + 3 by omega, frameBytes_eq]
      simp
    have hf : f = ⟨false, true, false, false, false, false⟩ := by
      simp only [f, hframe, decodeFrame_flags_of_right_length hpos hmax, hascii]
      simpa using hb
    exact ⟨hf, by rw [hf]; rfl⟩

/-- Flipping bit j makes an ASCII byte non-ASCII exactly when j is 7 (R12). -/
theorem not_isAscii_flip {b : Byte} (hb : isAscii b = true) (j : Nat) :
    (!isAscii (b ^^^ (1#8 <<< j))) = decide (j = 7) := by
  have hb7 : b.getLsbD 7 = false := by simpa [isAscii] using hb
  have hbit : (1#8 <<< j).getLsbD 7 = decide (j = 7) := by
    rw [Bool.eq_iff_iff, BitVec.getLsbD_shiftLeft, BitVec.getLsbD_one]
    simp
    omega
  rw [not_isAscii, BitVec.getLsbD_xor, hb7, hbit, Bool.false_xor]

section FlipBit
variable {bs : List Byte} {k j : Nat}

theorem flipBit_cons_succ (b : Byte) (bs : List Byte) (k j : Nat) :
    flipBit (b :: bs) (k + 1) j = b :: flipBit bs k j := rfl

theorem flipBit_append_of_lt (h : k < bs.length) (cs : List Byte) (j : Nat) :
    flipBit (bs ++ cs) k j = flipBit bs k j ++ cs := by
  rw [flipBit, flipBit, List.getD_append _ _ _ _ h, List.set_append_left _ _ h]

theorem flipBit_concat_length (bs : List Byte) (c : Byte) (j : Nat) :
    flipBit (bs ++ [c]) bs.length j = bs ++ [c ^^^ (1#8 <<< j)] := by
  simp [flipBit]

@[simp] theorem flipBit_length (bs : List Byte) (k j : Nat) : (flipBit bs k j).length = bs.length := List.length_set

theorem not_allAscii_flipBit (h : allAscii bs = true) (hk : k < bs.length) (j : Nat) :
    (!allAscii (flipBit bs k j)) = decide (j = 7) := by
  induction bs generalizing k with
  | nil => exact absurd hk (Nat.not_lt_zero k)
  | cons b bs ih =>
    obtain ⟨hb, hbs⟩ : isAscii b = true ∧ allAscii bs = true := by simpa using h
    cases k with
    | zero =>
      have hflip : flipBit (b :: bs) 0 j = (b ^^^ (1#8 <<< j)) :: bs := rfl
      rw [hflip, allAscii_cons, hbs, Bool.and_true, not_isAscii_flip hb]
    | succ k => rw [flipBit_cons_succ, allAscii_cons, hb, Bool.true_and, ih hbs (Nat.lt_of_succ_lt_succ hk)]

/-- A flipped bit is the error of R86(d), exclusive-ored in. -/
theorem flipBit_eq_xorBytes (hk : k < bs.length) (hj : j < 8) :
    flipBit bs k j = xorBytes bs (bitError bs.length (8 * (bs.length - 1 - k) + j)) := by
  have hbyte : bs.length - 1 - (8 * (bs.length - 1 - k) + j) / 8 = k := by omega
  have hbit : (8 * (bs.length - 1 - k) + j) % 8 = j := by omega
  rw [bitError, hbyte, hbit]
  refine List.ext_getElem (by simp [xorBytes]) fun i hi hi' => ?_
  simp only [xorBytes, List.getElem_zipWith, flipBit, List.getElem_set]
  split_ifs with hik
  · subst hik
    simp [hk]
  · simp

/-- R86(d): a flipped bit is seen by the CRC. -/
theorem crc8_flipBit_ne_zero (h : crc8 bs = 0) (hk : k < bs.length) (hj : j < 8) : crc8 (flipBit bs k j) ≠ 0 := by
  rw [flipBit_eq_xorBytes hk hj, crcIsAffine _ _ (by simp [length_bitError]), h]
  simpa using singleBitErrorIsDetected bs.length (8 * (bs.length - 1 - k) + j) (by omega)

end FlipBit

/-- R86(b): the residue over a list and its last byte is 0 exactly when that byte is the list's CRC. -/
theorem crc8_concat_eq_zero_iff {bs : List Byte} {c : Byte} : crc8 (bs ++ [c]) = 0 ↔ c = crc8 bs := by
  have hstep : crcStep (crc8 bs) c = crcShift^[8] (crc8 bs ^^^ c) := crcShifts_eq_iterate _ _
  rw [crc8_append_single, hstep, ← iterate_crcShift_zero 8, (crcShift_injective.iterate 8).eq_iff]
  exact BitVec.xor_eq_zero_iff.trans eq_comm

/-- The bytes of a frame that the CRC covers, and the CRC, with one bit of one of them flipped: their fields. -/
theorem flipBit_body {o c : Byte} {p : List Byte} {i : Nat} (hi : i ≤ p.length + 1) (hascii : allAscii p = true)
    (j : Nat) :
    ∃ o' p' c', flipBit (o :: (p ++ [c])) i j = o' :: (p' ++ [c']) ∧ p'.length = p.length ∧
      (!allAscii p') = decide (j = 7 ∧ 1 ≤ i ∧ i ≤ p.length) := by
  match i with
  | 0 => exact ⟨o ^^^ (1#8 <<< j), p, c, rfl, rfl, by simp [hascii]⟩
  | i + 1 =>
    rw [flipBit_cons_succ]
    by_cases hlast : i < p.length
    · exact ⟨o, flipBit p i j, c, by rw [flipBit_append_of_lt hlast], flipBit_length p i j,
        by simp [not_allAscii_flipBit hascii hlast, Nat.succ_le_of_lt hlast]⟩
    · obtain rfl : i = p.length := by omega
      exact ⟨o, p, _, by rw [flipBit_concat_length], rfl, by simp [hascii]⟩

/-- Settles O41: the CRC over opcode, payload and checksum was 0, and the flipped bit makes it another one. -/
theorem bodyBitFlipYieldsBadCrc : Obligations.BodyBitFlipYieldsBadCrc := by
  intro o p fr k j henc hk2 hk hj
  obtain ⟨⟨hpos, hmax, hascii⟩, rfl⟩ := encodeFrame_eq_ok henc
  obtain ⟨i, rfl⟩ := Nat.exists_eq_add_of_le' hk2
  have hi : i ≤ p.length + 1 := by omega
  obtain ⟨o', p', c', hbody, hlen, hencoding⟩ := flipBit_body (o := o) (c := crc8 (o :: p)) hi hascii j
  have hcrc : c' ≠ crc8 (o' :: p') := by
    have hzero : crc8 (o :: p ++ [crc8 (o :: p)]) = 0 := crc8_concat_eq_zero_iff.mpr rfl
    have hne := crc8_flipBit_ne_zero hzero (k := i) (by simp; omega) hj
    rwa [List.cons_append, hbody, ← List.cons_append, ne_eq, crc8_concat_eq_zero_iff] at hne
  have hframe : flipBit (frameBytes o p) (i + 2) j =
      prefixByte :: BitVec.ofNat 8 p'.length :: o' :: (p' ++ [c', suffixByte]) := by
    have happend : frameBytes o p =
        prefixByte :: BitVec.ofNat 8 p.length :: (o :: (p ++ [crc8 (o :: p)]) ++ [suffixByte]) := by
      simp [frameBytes_eq]
    rw [happend, flipBit_cons_succ, flipBit_cons_succ, flipBit_append_of_lt (by simp; omega), hbody, hlen]
    simp
  intro f
  have hf : f = ⟨false, false, true, decide (j = 7 ∧ 1 ≤ i ∧ i ≤ p.length), false, false⟩ := by
    simp only [f, hframe, decodeFrame_flags_of_right_length (hlen.symm ▸ hpos) (hlen.symm ▸ hmax), hencoding]
    simpa using hcrc
  rw [hf]
  exact ⟨rfl, decide_eq_decide.mpr (by omega), rfl, rfl, rfl, rfl, rfl⟩

/-- R124(b): with a length byte below the payload's length, the trailer is read from inside the payload and after it. -/
theorem decodeFrame_flags_of_shrunk {o c l : Byte} {p : List Byte} (h : l.toNat < p.length) :
    (decodeFrame (prefixByte :: l :: o :: (p ++ [c, suffixByte]))).flags =
      { badPrefix := false
        badPostfix := (p ++ [c, suffixByte]).getD (l.toNat + 1) 0 != suffixByte
        badCrc := p.getD l.toNat 0 != crc8 (o :: p.take l.toNat)
        badEncoding := !allAscii (p.take l.toNat)
        badDataSize := l == 0
        extra := true } := by
  have hL : frameLen (prefixByte :: l :: o :: (p ++ [c, suffixByte])) = l.toNat := rfl
  have hlength : (prefixByte :: l :: o :: (p ++ [c, suffixByte])).length = 5 + p.length := by simp; omega
  have hpayload : framePayload (prefixByte :: l :: o :: (p ++ [c, suffixByte])) = p.take l.toNat :=
    List.take_append_of_le_length h.le
  have hextra : decide (5 + l.toNat < 5 + p.length) = true := decide_eq_true (by omega)
  rw [decodeFrame_flags_of_whole (by omega), hpayload, hL, hlength, hextra, Nat.add_comm 4, Nat.add_comm 3]
  simp only [List.getD_cons_zero, List.getD_cons_succ, bne_self_eq_false, List.getD_append _ _ _ _ h]

theorem getLsbD_getD_of_allAscii {p : List Byte} (h : allAscii p = true) {i : Nat} (hi : i < p.length) :
    (p.getD i 0).getLsbD 7 = false := by
  rw [List.getD_eq_getElem _ _ hi]
  simpa [isAscii] using List.all_eq_true.mp h _ (List.getElem_mem hi)

/-- Settles O42: a longer frame than was sent does not arrive, a shorter one has its trailer inside the payload. -/
theorem lengthCorruptionFlags : Obligations.LengthCorruptionFlags := by
  intro o p fr l henc hne
  obtain ⟨⟨hpos, hmax, hascii⟩, rfl⟩ := encodeFrame_eq_ok henc
  have hframe : (frameBytes o p).set 1 l = prefixByte :: l :: o :: (p ++ [crc8 (o :: p), suffixByte]) := by
    rw [frameBytes_eq, List.set_cons_succ, List.set_cons_zero]
  rw [hframe]
  have hlength : (prefixByte :: l :: o :: (p ++ [crc8 (o :: p), suffixByte])).length = 5 + p.length := by simp; omega
  intro f
  refine ⟨fun hlong => ?_, fun hzero => ?_, fun hl hshort => ?_⟩
  · have hL : frameLen (prefixByte :: l :: o :: (p ++ [crc8 (o :: p), suffixByte])) = l.toNat := rfl
    have hf := decodeFrame_flags_of_short (by omega) (hlength.trans_lt (by omega))
    simp [f, hf, primaryByPriority]
  · have hf := decodeFrame_flags_of_shrunk (o := o) (c := crc8 (o :: p)) (l := l) (p := p) (by simp [hzero]; omega)
    simp [f, hf, hzero]
  · have hf : f = _ := decodeFrame_flags_of_shrunk hshort
    rw [hf]
    simp only [bne_eq_decide_ne]
    refine ⟨trivial, fun hin => ?_, fun hlast => ?_, trivial⟩
    · rw [List.getD_append _ _ _ _ hin]
      refine ⟨rfl, ?_⟩
      by_cases hsuf : p.getD (l.toNat + 1) 0 = suffixByte
      · exact .inr (hsuf ▸ getLsbD_getD_of_allAscii hascii hin)
      · exact .inl (decide_eq_true hsuf)
    · rw [hlast]
      simp

end Sys2Proof.Machine
end

section
/-! Statements of 43_control.md: the control commands (R141 to R144), and a word with an undefined code (R145, R157). -/

namespace Sys2Proof.Machine

/-- Settles O6: the step takes the word off the queue, and a word with an undefined code raises ILLEGAL on what is left. -/
theorem illegalWordSetsIllegalOnly : Obligations.IllegalWordSetsIllegalOnly := by
  intro s w ws c hin hdec
  rw [step_cons hin, runWord_illegal hdec]
  exact raiseIllegal_next_iff.mpr rfl

/-- Settles O9: the word is the command's encoding (O2), and NOP has one branch. -/
theorem nopDoesNothing : Obligations.NopDoesNothing := fun d _ =>
  ⟨decodeOfEncodeIsIdentity (.nop d), exec_of_effect (.nop d)⟩

/-- Settles O10: both buffers are as after power-on reset (log 9), and every register is R38's. -/
theorem sresetRestoresResetValues : Obligations.SresetRestoresResetValues := fun d _ =>
  ⟨decodeOfEncodeIsIdentity (.sreset d), State.reset.txbuf, State.reset.rxbuf,
    exec_of_effect (.sreset d)⟩

/-- R35: each bit of CMDSTAT, by the place of its flag. -/
theorem State.getLsbD_cmdstat (s : State) (k : Nat) : s.cmdstat.getLsbD k =
    (decide (k = 0) && s.cmdflags.illegal || decide (k = 1) && s.cmdflags.sequence) := by
  simp [State.cmdstat, getLsbD_bitAt]

/-- Settles O12: the byte is CMDSTAT, each bit of which stands in its place. -/
theorem cmdStatReturnsCommandFlags : Obligations.CmdStatReturnsCommandFlags := by
  intro d s
  refine ⟨decodeOfEncodeIsIdentity (.cmdStat d), s.cmdstat, exec_of_effect (.cmdStat d), ?_⟩
  simp only [State.getLsbD_cmdstat]
  refine ⟨by simp, by simp, fun k hk => ?_⟩
  have hillegal : k ≠ 0 := by omega
  have hsequence : k ≠ 1 := by omega
  simp [hillegal, hsequence]

/-- Settles O13: the word is the command's encoding (O2), and CMD_CLR has one branch. -/
theorem cmdClrClearsCommandFlags : Obligations.CmdClrClearsCommandFlags := fun d _ =>
  ⟨decodeOfEncodeIsIdentity (.cmdClr d), exec_of_effect (.cmdClr d)⟩

end Sys2Proof.Machine
end

section
/-! Statements of 60_exceptions.md: what an accepted frame has passed (R155), the command error SEQUENCE (R156), what
clears a status flag (R159), and which flags one command can set together (R161). -/

namespace Sys2Proof.Machine

/-! ## The acceptance gate -/

/-- ascii(s) byte by byte (R12). -/
theorem allAscii_iff {bs : List Byte} : allAscii bs = true ↔ ∀ b ∈ bs, b.getLsbD 7 = false := by
  simp [allAscii, isAscii]

/-- Settles O39: the invariant has a reason for each flag that is not set, and a zero length would be on record. -/
theorem acceptedFrameHoldsAllChecks : Obligations.AcceptedFrameHoldsAllChecks := by
  intro s h hdone _ _ hcrc hencoding hsize
  obtain ⟨hcnt, hr32, hchk⟩ := h.rx_accepted hdone hsize
  have hnonzero : s.rxlen ≠ 0 := fun hzero =>
    nomatch hsize.symm.trans (h.rx_zeroLen (.inr (.inr (.inr hdone))) hzero)
  have hascii : allAscii (s.rxbuf.slice s.rxcnt.toNat) = true := by simpa [hencoding] using h.rx_encoding
  rw [← hcnt] at hnonzero ⊢
  exact ⟨by bv_omega, rfl, allAscii_iff.mp hascii, (hchk hcrc).trans hr32⟩

/-! ## The command error SEQUENCE -/

/-- Settles O44: a command not permitted is refused, and of the permitted ones only the two named write CMDSTAT. -/
theorem sequenceRaisedExactlyWhenNotPermitted : Obligations.SequenceRaisedExactlyWhenNotPermitted := by
  refine fun i s => ⟨exec_of_not_permitted, fun hp t h => ?_⟩
  by_cases hclr : ∃ d, i = .cmdClr d
  · obtain ⟨d, rfl⟩ := hclr
    cases h
    exact .inr ⟨rfl, .inl ⟨d, rfl⟩⟩
  by_cases hreset : ∃ d, i = .sreset d
  · obtain ⟨d, rfl⟩ := hreset
    cases h
    exact .inr ⟨rfl, .inr ⟨d, rfl⟩⟩
  exact .inl ((effect_of_exec h).cmdflags_eq hp (not_exists.mp hclr) (not_exists.mp hreset))

/-- R156: SEQUENCE is newly set by a refusal only, since a permitted command leaves CMDSTAT or clears it. -/
theorem not_permitted_of_sequence_set {i : Instr} {s t : State} (h : exec i s = .next t)
    (ht : t.cmdflags.sequence = true) (hs : s.cmdflags.sequence = false) : permitted i s = false := by
  by_contra hp
  obtain heq | ⟨hclear, -⟩ := (sequenceRaisedExactlyWhenNotPermitted i s).2 (eq_true_of_ne_false hp) t h
  · rw [heq, hs] at ht
    cases ht
  · rw [hclear] at ht
    cases ht

/-! ## Sticky flags -/

/-- Every TX flag set in f is set in g. -/
def TxFlags.KeptBy (f g : TxFlags) : Prop :=
  (f.invalidPayload = true → g.invalidPayload = true) ∧ (f.empty = true → g.empty = true) ∧
    (f.tooLong = true → g.tooLong = true) ∧ (f.nonAscii = true → g.nonAscii = true)

/-- Every RX flag set in f is set in g. -/
def RxFlags.KeptBy (f g : RxFlags) : Prop :=
  (f.badPrefix = true → g.badPrefix = true) ∧ (f.badPostfix = true → g.badPostfix = true) ∧
    (f.badCrc = true → g.badCrc = true) ∧ (f.badEncoding = true → g.badEncoding = true) ∧
    (f.badDataSize = true → g.badDataSize = true) ∧ (f.extra = true → g.extra = true)

/-- Every CMDSTAT flag set in f is set in g. -/
def CmdFlags.KeptBy (f g : CmdFlags) : Prop :=
  (f.illegal = true → g.illegal = true) ∧ (f.sequence = true → g.sequence = true)

theorem TxFlags.KeptBy.refl (f : TxFlags) : f.KeptBy f := ⟨id, id, id, id⟩

theorem RxFlags.KeptBy.refl (f : RxFlags) : f.KeptBy f := ⟨id, id, id, id, id, id⟩

theorem CmdFlags.KeptBy.refl (f : CmdFlags) : f.KeptBy f := ⟨id, id⟩

section Sticky
variable {s t : State} {i : Instr}

/-- R159: a command that is not TX_START or SRESET only adds to the TX flags. -/
theorem Effect.txflags_keptBy (he : Effect s i t) (hstart : ∀ d, i ≠ .txStart d) (hreset : ∀ d, i ≠ .sreset d) :
    s.txflags.KeptBy t.txflags := by
  cases he with
  | txStart d => exact absurd rfl (hstart d)
  | sreset d => exact absurd rfl (hreset d)
  | txPushFull | txPush | txEndReject => simp +contextual [TxFlags.KeptBy]
  | _ => exact .refl _

/-- R159: a command that is not RX_START or SRESET only adds to the RX flags. -/
theorem Effect.rxflags_keptBy (he : Effect s i t) (hstart : ∀ d, i ≠ .rxStart d) (hreset : ∀ d, i ≠ .sreset d) :
    s.rxflags.KeptBy t.rxflags := by
  cases he with
  | rxStart d => exact absurd rfl (hstart d)
  | sreset d => exact absurd rfl (hreset d)
  | rxPushPrefix | rxPushOpc | rxPushPayload | rxPushSuf | rxPushDone | rxEndShort =>
    simp +contextual [RxFlags.KeptBy]
  | _ => exact .refl _

/-- R159: a refusal adds SEQUENCE to CMDSTAT, and every other command but CMD_CLR and SRESET leaves it alone. -/
theorem Effect.cmdflags_keptBy (he : Effect s i t) (hclr : ∀ d, i ≠ .cmdClr d) (hreset : ∀ d, i ≠ .sreset d) :
    s.cmdflags.KeptBy t.cmdflags := by
  cases he with
  | cmdClr d => exact absurd rfl (hclr d)
  | sreset d => exact absurd rfl (hreset d)
  | sequence => exact ⟨id, fun _ => rfl⟩
  | _ => exact .refl _

/-- What holds of every command but two holds unless the command is one of them. -/
theorem eq_or_eq_or_of_ne {c c' : Byte → Instr} {p : Prop} (h : (∀ d, i ≠ c d) → (∀ d, i ≠ c' d) → p) :
    (∃ d, i = c d) ∨ (∃ d, i = c' d) ∨ p :=
  or_iff_not_imp_left.mpr fun hc => or_iff_not_imp_left.mpr fun hc' => h (not_exists.mp hc) (not_exists.mp hc')

end Sticky

/-- Settles O45: each status register keeps its flags under all commands but the two that clear it. -/
theorem stickyFlagsClearedOnlyByNamedCommands : Obligations.StickyFlagsClearedOnlyByNamedCommands := by
  intro i s t h
  have he := effect_of_exec h
  exact ⟨eq_or_eq_or_of_ne he.txflags_keptBy, eq_or_eq_or_of_ne he.rxflags_keptBy, eq_or_eq_or_of_ne he.cmdflags_keptBy⟩

/-! ## Flags set together -/

/-- R161: no command of the map sets ILLEGAL. -/
theorem Effect.illegal_already_set {s t : State} {i : Instr} (he : Effect s i t) (ht : t.cmdflags.illegal = true) :
    s.cmdflags.illegal = true := by
  cases he with
  | cmdClr | sreset => cases ht
  | _ => exact ht

/-- Settles O54: a newly set SEQUENCE is a refusal, which changes no frame flag; RX_PUSH and TX_END by their branches. -/
theorem simultaneousFlagsOfOneCommand : Obligations.SimultaneousFlagsOfOneCommand := by
  intro i s t h
  have he := effect_of_exec h
  refine ⟨he.illegal_already_set, fun ht hs => ?_, ?_, ?_⟩
  · cases h.symm.trans (exec_of_not_permitted (not_permitted_of_sequence_set h ht hs))
    exact ⟨rfl, rfl⟩
  · rintro ⟨d, rfl⟩
    cases he with
    | rxPushSuf _ hst => exact .inl ⟨rfl, hst⟩
    | rxPushPrefix => exact .inr (.inl rfl)
    | rxPushPayload => exact .inr (.inr (.inl rfl))
    | rxPushOpc => exact .inr (.inr (.inr (.inl rfl)))
    | rxPushDone => exact .inr (.inr (.inr (.inr rfl)))
    | rxPushLen | rxPushChk | sequence => exact .inr (.inl rfl)
  · rintro ⟨d, rfl⟩
    cases he <;> rfl

end Sys2Proof.Machine
end

section
/-! Statements of 70_reset_and_hazards.md: a faulted run is one in which some command raised a command error (R183), and
the three units do not disturb each other (R181). -/

namespace Sys2Proof.Machine

/-! ## Runs, word by word -/

/-- No command word looks at the host's queue. -/
theorem runWord_setInput (w : Word) (s : State) (q : List Word) :
    runWord w (s.setInput q) = withInput q (runWord w s) := by
  cases hdec : decode w with
  | command i => rw [runWord_command hdec, runWord_command hdec, exec_withInput]
  | illegal c => rw [runWord_illegal hdec, runWord_illegal hdec]; rfl

/-- A run completes exactly when its first word does and the run of the rest completes from there. -/
theorem issue_cons_next_iff {w : Word} {ws : List Word} {s t : State} :
    issue (w :: ws) s = .next t ↔ ∃ u, runWord w s = .next u ∧ issue ws u = .next t := by
  have hstep : Sys2Proof.core.step { s with input := w :: ws } = withInput ws (runWord w s) :=
    (step_cons (s := { s with input := w :: ws }) rfl).trans (runWord_setInput w s ws)
  cases hrun : runWord w s with
  | next u =>
    rw [hrun] at hstep
    have hrest : issue (w :: ws) s = issue ws u := run_succ hstep ws.length
    simp [hrest]
  | fault | refused =>
    rw [hrun] at hstep
    simp [issue, Host.Core.run, hstep, withInput]

/-! ## Faulted runs -/

/-- R156, R157: the word raises a command error in this state, by an undefined code or a command not permitted. -/
def RaisesError (w : Word) (s : State) : Prop :=
  (∃ c, decode w = .illegal c) ∨ ∃ i, decode w = .command i ∧ permitted i s = false

/-- R183: some word of the run raises a command error in the state it meets. -/
def RunRaisesError (ws : List Word) (s : State) : Prop :=
  ∃ (pre post : List Word) (w : Word) (u : State), ws = pre ++ w :: post ∧ issue pre s = .next u ∧ RaisesError w u

/-- R183: the two words that a claim about faulted runs forbids. -/
def ClearsCmdStat (w : Word) : Prop := ∃ d, decode w = .command (.cmdClr d) ∨ decode w = .command (.sreset d)

section Faulted
variable {w : Word} {ws : List Word} {s t u : State}

theorem raisesError_of_illegal {c : Byte} (hdec : decode w = .illegal c) (s : State) : RaisesError w s :=
  .inl ⟨c, hdec⟩

theorem raisesError_command_iff {i : Instr} (hdec : decode w = .command i) :
    RaisesError w s ↔ permitted i s = false := by
  simp [RaisesError, hdec]

theorem raisesError_setInput (w : Word) (s : State) (q : List Word) :
    RaisesError w (s.setInput q) ↔ RaisesError w s := by
  have hperm (i : Instr) : permitted i (s.setInput q) = permitted i s := by cases i <;> rfl
  simp only [RaisesError, hperm]

/-- R156: a command other than CMD_CLR and SRESET leaves CMDSTAT nonzero if it was, or if the command is refused. -/
theorem Effect.faulted_iff {i : Instr} (he : Effect s i t) (hclr : ∀ d, i ≠ .cmdClr d) (hreset : ∀ d, i ≠ .sreset d) :
    t.faulted = true ↔ s.faulted = true ∨ permitted i s = false := by
  cases hp : permitted i s with
  | true => simp [State.faulted, he.cmdflags_eq hp hclr hreset]
  | false =>
    cases (exec_of_effect he).symm.trans (exec_of_not_permitted hp)
    simp [State.faulted]

/-- R156, R157: and so does a command word, the undefined codes included. -/
theorem WordEffect.faulted_iff (he : WordEffect s w t) (hw : ¬ ClearsCmdStat w) :
    t.faulted = true ↔ s.faulted = true ∨ RaisesError w s := by
  cases he with
  | command hdec he =>
    rw [raisesError_command_iff hdec]
    exact he.faulted_iff (fun d h => hw ⟨d, .inl (h ▸ hdec)⟩) (fun d h => hw ⟨d, .inr (h ▸ hdec)⟩)
  | illegal hdec => simp [State.faulted, raisesError_of_illegal hdec]

theorem not_runRaisesError_nil (s : State) : ¬ RunRaisesError [] s := by
  simp [RunRaisesError]

/-- The word that raises the error is the first one or one of the rest. -/
theorem runRaisesError_cons_iff (hu : runWord w s = .next u) :
    RunRaisesError (w :: ws) s ↔ RaisesError w s ∨ RunRaisesError ws u := by
  constructor
  · rintro ⟨pre, post, w', v, hsplit, hrun, herr⟩
    cases pre with
    | nil =>
      cases hsplit
      cases hrun
      exact .inl ((raisesError_setInput w s []).mp herr)
    | cons w₀ pre =>
      cases hsplit
      obtain ⟨u', hu', hrun⟩ := issue_cons_next_iff.mp hrun
      cases hu.symm.trans hu'
      exact .inr ⟨pre, post, w', v, rfl, hrun, herr⟩
  · rintro (herr | ⟨pre, post, w', v, rfl, hrun, herr⟩)
    · exact ⟨[], ws, w, _, rfl, issue_nil s, (raisesError_setInput w s []).mpr herr⟩
    · exact ⟨w :: pre, post, w', v, rfl, issue_cons_next_iff.mpr ⟨u, hu, hrun⟩, herr⟩

/-- R183: without CMD_CLR and SRESET, CMDSTAT is nonzero at the end if it was at the start or a word raised an error. -/
theorem issue_faulted_iff (hws : ∀ w ∈ ws, ¬ ClearsCmdStat w) (h : issue ws s = .next t) :
    t.faulted = true ↔ s.faulted = true ∨ RunRaisesError ws s := by
  induction ws generalizing s with
  | nil =>
    cases h
    simp [State.faulted, not_runRaisesError_nil]
  | cons w ws ih =>
    obtain ⟨hw, hws⟩ := List.forall_mem_cons.mp hws
    obtain ⟨u, hu, hrest⟩ := issue_cons_next_iff.mp h
    rw [ih hws hrest, (runWord_next_iff.mp hu).faulted_iff hw, runRaisesError_cons_iff hu, or_assoc]

end Faulted

/-- Settles O46: the run starts without a fault, so one at its end is an error raised on the way. -/
theorem faultedRunRaisedSomeCommandError : Obligations.FaultedRunRaisedSomeCommandError := by
  intro ws s t hclear hws h
  have hstart : s.faulted = false := by rw [State.faulted, hclear]; rfl
  have hkeep : ∀ w ∈ ws, ¬ ClearsCmdStat w := fun w hw ⟨d, hd⟩ => hd.elim (hws w hw d).1 (hws w hw d).2
  exact (issue_faulted_iff hkeep h).trans (or_iff_right (Bool.eq_false_iff.mp hstart))

/-! ## Independence of the units -/

/-- The serializer's registers and buffer, as one value. -/
def State.txUnit (s : State) : TxSt × Byte × Byte × Memory × Byte × BitVec 9 × TxFlags :=
  (s.txst, s.txopc, s.txcnt, s.txbuf, s.txcrc, s.txrd, s.txflags)

/-- The deserializer's registers and buffer, as one value. -/
def State.rxUnit (s : State) : RxSt × Byte × Byte × Byte × Memory × Byte × Byte × Byte × RxFlags :=
  (s.rxst, s.rxlen, s.rxopc, s.rxcnt, s.rxbuf, s.rxchk, s.rxcrc, s.rxrd, s.rxflags)

/-- `r` with the serializer of `s`. -/
def State.withTxOf (r s : State) : State :=
  { r with
    txst := s.txst, txopc := s.txopc, txcnt := s.txcnt, txbuf := s.txbuf, txcrc := s.txcrc, txrd := s.txrd
    txflags := s.txflags }

/-- `r` with the deserializer of `s`. -/
def State.withRxOf (r s : State) : State :=
  { r with
    rxst := s.rxst, rxlen := s.rxlen, rxopc := s.rxopc, rxcnt := s.rxcnt, rxbuf := s.rxbuf, rxchk := s.rxchk
    rxcrc := s.rxcrc, rxrd := s.rxrd, rxflags := s.rxflags }

section Units
variable {s s' t t' : State} {i : Instr}

theorem sameTx_iff : sameTx s t ↔ s.txUnit = t.txUnit := by
  simp only [sameTx, State.txUnit, Prod.mk.injEq]

theorem sameRx_iff : sameRx s t ↔ s.rxUnit = t.rxUnit := by
  simp only [sameRx, State.rxUnit, Prod.mk.injEq]

theorem State.withTxOf_of_sameTx (h : sameTx s s') : s'.withTxOf s = s' := by
  obtain ⟨hst, hopc, hcnt, hbuf, hcrc, hrd, hflags⟩ := h
  rw [State.withTxOf, hst, hopc, hcnt, hbuf, hcrc, hrd, hflags]

theorem State.withRxOf_of_sameRx (h : sameRx s s') : s'.withRxOf s = s' := by
  obtain ⟨hst, hlen, hopc, hcnt, hbuf, hchk, hcrc, hrd, hflags⟩ := h
  rw [State.withRxOf, hst, hlen, hopc, hcnt, hbuf, hchk, hcrc, hrd, hflags]

/-- A command's effect is its answer, so there is one only. -/
theorem Effect.unique (he : Effect s i t) (he' : Effect s i t') : t = t' := by
  cases (exec_of_effect he).symm.trans (exec_of_effect he')
  rfl

/-- R156: no rule of the CRC unit has a state check. -/
theorem permitted_of_isCrcCommand (hunit : isCrcCommand i = true) (s : State) : permitted i s = true := by
  cases i with
  | crcInit | crcFeed | crcRead => rfl
  | _ => cases hunit

/-- R156: the state check of a serializer command looks at the serializer only. -/
theorem permitted_withTxOf (hunit : isTxCommand i = true) (r s : State) :
    permitted i (r.withTxOf s) = permitted i s := by
  cases i with
  | txStart | txPush | txEnd | txPop | txStat => rfl
  | _ => cases hunit

/-- R156: the state check of a deserializer command looks at the deserializer only. -/
theorem permitted_withRxOf (hunit : isRxCommand i = true) (r s : State) :
    permitted i (r.withRxOf s) = permitted i s := by
  cases i with
  | rxStart | rxPush | rxEnd | rxStat | rxErr | rxRdlen | rxRdopc | rxPop => rfl
  | _ => cases hunit

/-- R83 to R85: what a command of the CRC unit leaves in CRC depends on CRC alone. -/
theorem Effect.crc_transfers (he : Effect s i t) (hunit : isCrcCommand i = true) (h : s.crc = s'.crc) :
    ∃ u, Effect s' i u ∧ t.crc = u.crc := by
  cases he with
  | crcInit d => exact ⟨_, .crcInit d, rfl⟩
  | crcFeed d => exact ⟨_, .crcFeed d, congrArg (crcStep · d) h⟩
  | crcRead d => exact ⟨_, .crcRead d, h⟩
  | sequence _ hp => exact nomatch hp.symm.trans (permitted_of_isCrcCommand hunit s)
  | _ => cases hunit

/-- R47: a serializer command reads and writes the serializer's state alike, whatever state it is a part of. -/
theorem Effect.txUnit_transfers (he : Effect s i t) (hunit : isTxCommand i = true) (r : State) :
    ∃ u, Effect (r.withTxOf s) i u ∧ t.txUnit = u.txUnit := by
  cases he with
  | txStart d => exact ⟨_, .txStart d, rfl⟩
  | txPushFull d hst hcnt => exact ⟨_, .txPushFull d hst hcnt, rfl⟩
  | txPush d hst hcnt => exact ⟨_, .txPush d hst hcnt, rfl⟩
  | txEndReject d hst hbad => exact ⟨_, .txEndReject d hst hbad, rfl⟩
  | txEnd d hst hok => exact ⟨_, .txEnd d hst hok, rfl⟩
  | txPop d hst => exact ⟨_, .txPop d hst, rfl⟩
  | txStat d => exact ⟨_, .txStat d, rfl⟩
  | sequence _ hp => exact ⟨_, .sequence i ((permitted_withTxOf hunit r s).trans hp), rfl⟩
  | _ => cases hunit

/-- R47: a deserializer command reads and writes the deserializer's state alike, whatever state it is a part of. -/
theorem Effect.rxUnit_transfers (he : Effect s i t) (hunit : isRxCommand i = true) (r : State) :
    ∃ u, Effect (r.withRxOf s) i u ∧ t.rxUnit = u.rxUnit := by
  cases he with
  | rxStart d => exact ⟨_, .rxStart d, rfl⟩
  | rxPushPrefix d hst => exact ⟨_, .rxPushPrefix d hst, rfl⟩
  | rxPushLen d hst => exact ⟨_, .rxPushLen d hst, rfl⟩
  | rxPushOpc d hst => exact ⟨_, .rxPushOpc d hst, rfl⟩
  | rxPushPayload d hst hcnt => exact ⟨_, .rxPushPayload d hst hcnt, rfl⟩
  | rxPushChk d hst => exact ⟨_, .rxPushChk d hst, rfl⟩
  | rxPushSuf d hst => exact ⟨_, .rxPushSuf d hst, rfl⟩
  | rxPushDone d hst => exact ⟨_, .rxPushDone d hst, rfl⟩
  | rxEndDone d hst => exact ⟨_, .rxEndDone d hst, rfl⟩
  | rxEndShort d hst hst' => exact ⟨_, .rxEndShort d hst hst', rfl⟩
  | rxStat d => exact ⟨_, .rxStat d, rfl⟩
  | rxErr d => exact ⟨_, .rxErr d, rfl⟩
  | rxRdlen d hv => exact ⟨_, .rxRdlen d hv, rfl⟩
  | rxRdopc d hv => exact ⟨_, .rxRdopc d hv, rfl⟩
  | rxPop d hv hrd => exact ⟨_, .rxPop d hv hrd, rfl⟩
  | sequence _ hp => exact ⟨_, .sequence i ((permitted_withRxOf hunit r s).trans hp), rfl⟩
  | _ => cases hunit

/-- Two states that agree on one unit, the part `v`, agree on it after the same command: a command of another unit leaves
it alone in both, and one of the unit's own takes the second state to some state that agrees with the first one's next. -/
theorem agree_of_frame_of_own {α : Type} {v : State → α} {unit : Bool} (h : v s = v s') (he : Effect s i t)
    (he' : Effect s' i t') (hframe : ∀ {s t}, Effect s i t → unit = false → v s = v t)
    (hown : unit = true → ∃ u, Effect s' i u ∧ v t = v u) : v t = v t' := by
  cases unit with
  | false => exact (hframe he rfl).symm.trans (h.trans (hframe he' rfl))
  | true =>
    obtain ⟨u, hu, hv⟩ := hown rfl
    rw [hv, hu.unique he']

theorem Effect.crc_agree (he : Effect s i t) (he' : Effect s' i t') (hreset : ∀ d, i ≠ .sreset d)
    (h : s.crc = s'.crc) : t.crc = t'.crc :=
  agree_of_frame_of_own h he he' (fun he hunit => he.crc_eq hunit hreset) fun hunit => he.crc_transfers hunit h

theorem Effect.sameTx_agree (he : Effect s i t) (he' : Effect s' i t') (hreset : ∀ d, i ≠ .sreset d)
    (h : Machine.sameTx s s') : Machine.sameTx t t' := by
  have hown (hunit) := State.withTxOf_of_sameTx h ▸ he.txUnit_transfers hunit s'
  rw [sameTx_iff] at h ⊢
  exact agree_of_frame_of_own h he he' (fun he hunit => sameTx_iff.mp (he.sameTx hunit hreset)) hown

theorem Effect.sameRx_agree (he : Effect s i t) (he' : Effect s' i t') (hreset : ∀ d, i ≠ .sreset d)
    (h : Machine.sameRx s s') : Machine.sameRx t t' := by
  have hown (hunit) := State.withRxOf_of_sameRx h ▸ he.rxUnit_transfers hunit s'
  rw [sameRx_iff] at h ⊢
  exact agree_of_frame_of_own h he he' (fun he hunit => sameRx_iff.mp (he.sameRx hunit hreset)) hown

end Units

/-- Settles O48: SRESET gives every unit its reset values, and any other command is of one unit at most. -/
theorem unitsEvolveIndependently : Obligations.UnitsEvolveIndependently := by
  intro i s s' t t' h h'
  by_cases hreset : ∃ d, i = .sreset d
  · obtain ⟨d, rfl⟩ := hreset
    cases h
    cases h'
    exact ⟨fun _ => rfl, fun _ => sameTx_iff.mpr rfl, fun _ => sameRx_iff.mpr rfl⟩
  · have hne := not_exists.mp hreset
    have he := effect_of_exec h
    have he' := effect_of_exec h'
    exact ⟨he.crc_agree he' hne, he.sameTx_agree he' hne, he.sameRx_agree he' hne⟩

end Sys2Proof.Machine
end

section
/-! A statement of the model's own, log 3: a block that is given no word. -/

namespace Sys2Proof.Machine

/-- Settles O7: of the two things a step can do, a block with an empty queue does the first, which is to wait. -/
theorem waitingBlockIsUnchanged : Obligations.WaitingBlockIsUnchanged := fun _ hin =>
  step_next_iff.mpr (.inl ⟨hin, rfl⟩)

end Sys2Proof.Machine
end
